-- ==== Sys2Proof/Word.lean ====
section
/-! DEFINITION. The machine's word types (00_scope.md R8, R9): every value is unsigned, bit 0 is the least
significant bit. -/

namespace Sys2Proof

/-- An 8-bit value: a memory byte, a data register, a timer, the immediate NN. -/
abbrev Byte := BitVec 8

/-- A 16-bit value: an instruction word, `pc`, `I`, a stack cell. -/
abbrev Word := BitVec 16

/-- A 4-bit instruction field (R9: OP, N). -/
abbrev Nibble := BitVec 4

/-- The 12-bit address field NNN (R9). -/
abbrev Addr12 := BitVec 12

end Sys2Proof
end

