-- ==== Sys2Proof/Syntax.lean ====
section
/-! DEFINITION. The 35 instructions of spec/opcode_table.json (30_encoding.md R94), one constructor a row, in the
table's order. X and Y are register numbers; NN, NNN and N are the word's own bits (R93). -/

namespace Sys2Proof

/-- A data register number: `V0` .. `VF` (R20). Every 4-bit field X or Y is one. -/
abbrev Reg := Fin 16

/-- `VF`, register 15, the flags register (R22). -/
abbrev Reg.vf : Reg := 15

/-- `V0`, the offset register BNNN names implicitly (R125). -/
abbrev Reg.v0 : Reg := 0

/-- One constructor per row of the opcode table. -/
inductive Instr where
  /-- 00E0 `CLS` (R201) -/
  | cls
  /-- 00EE `RET` (R121) -/
  | ret
  /-- 0NNN `SYS nnn` (R122) -/
  | sys (nnn : Addr12)
  /-- 1NNN `JP nnn` (R123) -/
  | jp (nnn : Addr12)
  /-- 2NNN `CALL nnn` (R124) -/
  | call (nnn : Addr12)
  /-- 3XNN `SE Vx, nn` (R141) -/
  | seVxNn (x : Reg) (nn : Byte)
  /-- 4XNN `SNE Vx, nn` (R142) -/
  | sneVxNn (x : Reg) (nn : Byte)
  /-- 5XY0 `SE Vx, Vy` (R143) -/
  | seVxVy (x y : Reg)
  /-- 6XNN `LD Vx, nn` (R151) -/
  | ldVxNn (x : Reg) (nn : Byte)
  /-- 7XNN `ADD Vx, nn` (R152) -/
  | addVxNn (x : Reg) (nn : Byte)
  /-- 8XY0 `LD Vx, Vy` (R153) -/
  | ldVxVy (x y : Reg)
  /-- 8XY1 `OR Vx, Vy` (R154) -/
  | or (x y : Reg)
  /-- 8XY2 `AND Vx, Vy` (R155) -/
  | and (x y : Reg)
  /-- 8XY3 `XOR Vx, Vy` (R156) -/
  | xor (x y : Reg)
  /-- 8XY4 `ADD Vx, Vy` (R157) -/
  | addVxVy (x y : Reg)
  /-- 8XY5 `SUB Vx, Vy` (R158) -/
  | sub (x y : Reg)
  /-- 8XY6 `SHR Vx, Vy` (R159) -/
  | shr (x y : Reg)
  /-- 8XY7 `SUBN Vx, Vy` (R160) -/
  | subn (x y : Reg)
  /-- 8XYE `SHL Vx, Vy` (R161) -/
  | shl (x y : Reg)
  /-- 9XY0 `SNE Vx, Vy` (R144) -/
  | sneVxVy (x y : Reg)
  /-- ANNN `LD I, nnn` (R181) -/
  | ldINnn (nnn : Addr12)
  /-- BNNN `JP V0, nnn` (R125) -/
  | jpV0 (nnn : Addr12)
  /-- CXNN `RND Vx, nn` (R162) -/
  | rnd (x : Reg) (nn : Byte)
  /-- DXYN `DRW Vx, Vy, n` (R202) -/
  | drw (x y : Reg) (n : Nibble)
  /-- EX9E `SKP Vx` (R221) -/
  | skp (x : Reg)
  /-- EXA1 `SKNP Vx` (R222) -/
  | sknp (x : Reg)
  /-- FX07 `LD Vx, DT` (R223) -/
  | ldVxDt (x : Reg)
  /-- FX0A `LD Vx, K` (R224) -/
  | ldVxK (x : Reg)
  /-- FX15 `LD DT, Vx` (R225) -/
  | ldDtVx (x : Reg)
  /-- FX18 `LD ST, Vx` (R226) -/
  | ldStVx (x : Reg)
  /-- FX1E `ADD I, Vx` (R182) -/
  | addIVx (x : Reg)
  /-- FX29 `LD F, Vx` (R183) -/
  | ldFVx (x : Reg)
  /-- FX33 `LD B, Vx` (R184) -/
  | ldBVx (x : Reg)
  /-- FX55 `LD [I], Vx` (R185) -/
  | ldMiVx (x : Reg)
  /-- FX65 `LD Vx, [I]` (R186) -/
  | ldVxMi (x : Reg)
  deriving DecidableEq, Repr

end Sys2Proof
end

