-- ==== Sys2Proof/Decode.lean ====
section
/-! DEFINITION. The decoder of 30_encoding.md R96, total on all 65536 words and rejecting by name (R97), and after it the
encoder, written from the formats of R92 and the opcode map of R94. -/

namespace Sys2Proof

/-- Why bytes are not an instruction. -/
inductive Reject where
  /-- R97: the word selects no row of the opcode map; it carries the raw word. -/
  | badInstruction (w : Word)
  /-- Fewer than two bytes: R90 gives every instruction exactly two. -/
  | truncated
  deriving DecidableEq, Repr

/-! ### Byte order of an instruction word (R67, R90) -/

/-- The big-endian pairing of two bytes, the first at the lower address (R62, R67). -/
def Word.ofBytes (hi lo : Byte) : Word := hi ++ lo

/-- The byte a word stores at the lower address (R67, R90). -/
def Word.hiByte (w : Word) : Byte := w.extractLsb' 8 8

/-- The byte a word stores at the higher address (R67, R90). -/
def Word.loByte (w : Word) : Byte := w.extractLsb' 0 8

/-! ### Fields of the instruction word (R9, R91) -/

/-- OP, bits 15..12. -/
def fieldOP (w : Word) : Nibble := w.extractLsb' 12 4
/-- X, bits 11..8. -/
def fieldX (w : Word) : Reg := (w.extractLsb' 8 4).toFin
/-- Y, bits 7..4. -/
def fieldY (w : Word) : Reg := (w.extractLsb' 4 4).toFin
/-- N, bits 3..0. -/
def fieldN (w : Word) : Nibble := w.extractLsb' 0 4
/-- NN, bits 7..0. -/
def fieldNN (w : Word) : Byte := w.extractLsb' 0 8
/-- NNN, bits 11..0. -/
def fieldNNN (w : Word) : Addr12 := w.extractLsb' 0 12

/-! ### The decoding procedure (R96) -/

/-- OP = 0: the two fixed words first, every other 0NNN is `SYS`. -/
def decode0 (w : Word) : Except Reject Instr :=
  if w = 0x00E0#16 then .ok .cls
  else if w = 0x00EE#16 then .ok .ret
  else .ok (.sys (fieldNNN w))

/-- OP = 8: the register-register group by its low nibble (R95). -/
def decode8 (w : Word) : Except Reject Instr :=
  if fieldN w = 0x0#4 then .ok (.ldVxVy (fieldX w) (fieldY w))
  else if fieldN w = 0x1#4 then .ok (.or (fieldX w) (fieldY w))
  else if fieldN w = 0x2#4 then .ok (.and (fieldX w) (fieldY w))
  else if fieldN w = 0x3#4 then .ok (.xor (fieldX w) (fieldY w))
  else if fieldN w = 0x4#4 then .ok (.addVxVy (fieldX w) (fieldY w))
  else if fieldN w = 0x5#4 then .ok (.sub (fieldX w) (fieldY w))
  else if fieldN w = 0x6#4 then .ok (.shr (fieldX w) (fieldY w))
  else if fieldN w = 0x7#4 then .ok (.subn (fieldX w) (fieldY w))
  else if fieldN w = 0xE#4 then .ok (.shl (fieldX w) (fieldY w))
  else .error (.badInstruction w)

/-- OP = E: the two key skips by their low byte. -/
def decodeE (w : Word) : Except Reject Instr :=
  if fieldNN w = 0x9E#8 then .ok (.skp (fieldX w))
  else if fieldNN w = 0xA1#8 then .ok (.sknp (fieldX w))
  else .error (.badInstruction w)

/-- OP = F: timers, key wait, index and memory transfers by their low byte. -/
def decodeF (w : Word) : Except Reject Instr :=
  if fieldNN w = 0x07#8 then .ok (.ldVxDt (fieldX w))
  else if fieldNN w = 0x0A#8 then .ok (.ldVxK (fieldX w))
  else if fieldNN w = 0x15#8 then .ok (.ldDtVx (fieldX w))
  else if fieldNN w = 0x18#8 then .ok (.ldStVx (fieldX w))
  else if fieldNN w = 0x1E#8 then .ok (.addIVx (fieldX w))
  else if fieldNN w = 0x29#8 then .ok (.ldFVx (fieldX w))
  else if fieldNN w = 0x33#8 then .ok (.ldBVx (fieldX w))
  else if fieldNN w = 0x55#8 then .ok (.ldMiVx (fieldX w))
  else if fieldNN w = 0x65#8 then .ok (.ldVxMi (fieldX w))
  else .error (.badInstruction w)

/-- R96: dispatch on the opcode nibble. -/
def decode (w : Word) : Except Reject Instr :=
  if fieldOP w = 0x0#4 then decode0 w
  else if fieldOP w = 0x1#4 then .ok (.jp (fieldNNN w))
  else if fieldOP w = 0x2#4 then .ok (.call (fieldNNN w))
  else if fieldOP w = 0x3#4 then .ok (.seVxNn (fieldX w) (fieldNN w))
  else if fieldOP w = 0x4#4 then .ok (.sneVxNn (fieldX w) (fieldNN w))
  else if fieldOP w = 0x5#4 then
    if fieldN w = 0x0#4 then .ok (.seVxVy (fieldX w) (fieldY w)) else .error (.badInstruction w)
  else if fieldOP w = 0x6#4 then .ok (.ldVxNn (fieldX w) (fieldNN w))
  else if fieldOP w = 0x7#4 then .ok (.addVxNn (fieldX w) (fieldNN w))
  else if fieldOP w = 0x8#4 then decode8 w
  else if fieldOP w = 0x9#4 then
    if fieldN w = 0x0#4 then .ok (.sneVxVy (fieldX w) (fieldY w)) else .error (.badInstruction w)
  else if fieldOP w = 0xA#4 then .ok (.ldINnn (fieldNNN w))
  else if fieldOP w = 0xB#4 then .ok (.jpV0 (fieldNNN w))
  else if fieldOP w = 0xC#4 then .ok (.rnd (fieldX w) (fieldNN w))
  else if fieldOP w = 0xD#4 then .ok (.drw (fieldX w) (fieldY w) (fieldN w))
  else if fieldOP w = 0xE#4 then decodeE w
  else decodeF w

/-- An instruction from the bytes of memory, high byte first (R67, R90), and the bytes after it. -/
def decodeBytes : List Byte → Except Reject (Instr × List Byte)
  | hi :: lo :: rest =>
    match decode (Word.ofBytes hi lo) with
    | .ok i => .ok (i, rest)
    | .error r => .error r
  | _ => .error .truncated

/-- What the decoder reads from the instruction whose bits are `w`, numbered as the opcode table numbers them: one word,
laid out high byte first as memory holds it. -/
def decodeTableWord (nbits w : Nat) : Option Instr :=
  let word : Word := BitVec.ofNat 16 (w % 2 ^ nbits)
  match decodeBytes [word.hiByte, word.loByte] with
  | .ok (i, _) => some i
  | .error _ => none

/-! ### The encoder, by format (R92) -/

/-- Format `NNN`: OP, then the 12-bit address. -/
def wordNNN (op : Nibble) (nnn : Addr12) : Word := op ++ nnn
/-- Format `XNN` (and `XSS`, where the low byte is the sub-opcode): OP, X, then 8 bits. -/
def wordXNN (op : Nibble) (x : Reg) (nn : Byte) : Word := op ++ (BitVec.ofFin x : Nibble) ++ nn
/-- Format `XYN` (and `XYS`, where the low nibble is the sub-opcode): OP, X, Y, then 4 bits. -/
def wordXYN (op : Nibble) (x y : Reg) (n : Nibble) : Word :=
  op ++ (BitVec.ofFin x : Nibble) ++ (BitVec.ofFin y : Nibble) ++ n

/-- The word of an instruction (R94). -/
def encode : Instr → Word
  | .cls => 0x00E0#16
  | .ret => 0x00EE#16
  | .sys nnn => wordNNN 0x0#4 nnn
  | .jp nnn => wordNNN 0x1#4 nnn
  | .call nnn => wordNNN 0x2#4 nnn
  | .seVxNn x nn => wordXNN 0x3#4 x nn
  | .sneVxNn x nn => wordXNN 0x4#4 x nn
  | .seVxVy x y => wordXYN 0x5#4 x y 0x0#4
  | .ldVxNn x nn => wordXNN 0x6#4 x nn
  | .addVxNn x nn => wordXNN 0x7#4 x nn
  | .ldVxVy x y => wordXYN 0x8#4 x y 0x0#4
  | .or x y => wordXYN 0x8#4 x y 0x1#4
  | .and x y => wordXYN 0x8#4 x y 0x2#4
  | .xor x y => wordXYN 0x8#4 x y 0x3#4
  | .addVxVy x y => wordXYN 0x8#4 x y 0x4#4
  | .sub x y => wordXYN 0x8#4 x y 0x5#4
  | .shr x y => wordXYN 0x8#4 x y 0x6#4
  | .subn x y => wordXYN 0x8#4 x y 0x7#4
  | .shl x y => wordXYN 0x8#4 x y 0xE#4
  | .sneVxVy x y => wordXYN 0x9#4 x y 0x0#4
  | .ldINnn nnn => wordNNN 0xA#4 nnn
  | .jpV0 nnn => wordNNN 0xB#4 nnn
  | .rnd x nn => wordXNN 0xC#4 x nn
  | .drw x y n => wordXYN 0xD#4 x y n
  | .skp x => wordXNN 0xE#4 x 0x9E#8
  | .sknp x => wordXNN 0xE#4 x 0xA1#8
  | .ldVxDt x => wordXNN 0xF#4 x 0x07#8
  | .ldVxK x => wordXNN 0xF#4 x 0x0A#8
  | .ldDtVx x => wordXNN 0xF#4 x 0x15#8
  | .ldStVx x => wordXNN 0xF#4 x 0x18#8
  | .addIVx x => wordXNN 0xF#4 x 0x1E#8
  | .ldFVx x => wordXNN 0xF#4 x 0x29#8
  | .ldBVx x => wordXNN 0xF#4 x 0x33#8
  | .ldMiVx x => wordXNN 0xF#4 x 0x55#8
  | .ldVxMi x => wordXNN 0xF#4 x 0x65#8

/-- The fixed digits of the instruction's row, as the opcode map's mask (R94). -/
def opcodeMask : Instr → Word
  | .cls | .ret => 0xFFFF#16
  | .sys _ | .jp _ | .call _ | .ldINnn _ | .jpV0 _ => 0xF000#16
  | .seVxNn _ _ | .sneVxNn _ _ | .ldVxNn _ _ | .addVxNn _ _ | .rnd _ _ | .drw _ _ _ => 0xF000#16
  | .seVxVy _ _ | .sneVxVy _ _ | .ldVxVy _ _ | .or _ _ | .and _ _ | .xor _ _ | .addVxVy _ _ => 0xF00F#16
  | .sub _ _ | .shr _ _ | .subn _ _ | .shl _ _ => 0xF00F#16
  | .skp _ | .sknp _ | .ldVxDt _ | .ldVxK _ | .ldDtVx _ | .ldStVx _ => 0xF0FF#16
  | .addIVx _ | .ldFVx _ | .ldBVx _ | .ldMiVx _ | .ldVxMi _ => 0xF0FF#16

/-- The value of the fixed digits of the instruction's row, as the opcode map's match (R94). -/
def opcodeMatch : Instr → Word
  | .cls => 0x00E0#16
  | .ret => 0x00EE#16
  | .sys _ => 0x0000#16
  | .jp _ => 0x1000#16
  | .call _ => 0x2000#16
  | .seVxNn _ _ => 0x3000#16
  | .sneVxNn _ _ => 0x4000#16
  | .seVxVy _ _ => 0x5000#16
  | .ldVxNn _ _ => 0x6000#16
  | .addVxNn _ _ => 0x7000#16
  | .ldVxVy _ _ => 0x8000#16
  | .or _ _ => 0x8001#16
  | .and _ _ => 0x8002#16
  | .xor _ _ => 0x8003#16
  | .addVxVy _ _ => 0x8004#16
  | .sub _ _ => 0x8005#16
  | .shr _ _ => 0x8006#16
  | .subn _ _ => 0x8007#16
  | .shl _ _ => 0x800E#16
  | .sneVxVy _ _ => 0x9000#16
  | .ldINnn _ => 0xA000#16
  | .jpV0 _ => 0xB000#16
  | .rnd _ _ => 0xC000#16
  | .drw _ _ _ => 0xD000#16
  | .skp _ => 0xE09E#16
  | .sknp _ => 0xE0A1#16
  | .ldVxDt _ => 0xF007#16
  | .ldVxK _ => 0xF00A#16
  | .ldDtVx _ => 0xF015#16
  | .ldStVx _ => 0xF018#16
  | .addIVx _ => 0xF01E#16
  | .ldFVx _ => 0xF029#16
  | .ldBVx _ => 0xF033#16
  | .ldMiVx _ => 0xF055#16
  | .ldVxMi _ => 0xF065#16

end Sys2Proof
end

