-- ==== Sys2Proof/Config.lean ====
section
/-! DEFINITION. The implementation parameters of 00_scope.md R6 as one configuration record, the constraints R6 puts
on them, and the model's one free value (the random byte no event supplies, R51). The standard values are
`Config.std` in Machine/Standard.lean. -/

namespace Sys2Proof

/-- `SHIFT_SRC` (R6, D12): the register 8XY6 and 8XYE shift. -/
inductive ShiftSrc where
  | vx
  | vy
  deriving DecidableEq, Repr

/-- `VF_ORDER` (R6, R23, D13): which of result and flag is written last, seen only when X = F. -/
inductive VfOrder where
  | flagLast
  | resultLast
  deriving DecidableEq, Repr

/-- The parameters of R6 that a rule of the spec reads. `NUM_REGS`, `NUM_KEYS` (16) and `STRIDE` (2) are not here: R6
fixes them in every configuration. `TIMER_HZ` and `CYCLE_HZ` are not here: no rule depends on them (R7). -/
structure Config where
  /-- `MEM_SIZE`: bytes of memory. -/
  memSize : Nat
  /-- `STACK_CAP`: stack entries. -/
  stackCap : Nat
  /-- `PC_INIT`: reset value of pc and ROM load address. -/
  pcInit : Nat
  /-- `FONT_BASE`: address of the first font byte. -/
  fontBase : Nat
  /-- `GLYPH_BYTES`: bytes per font glyph. -/
  glyphBytes : Nat
  /-- `FONT`: the font bytes, glyph 0 first. -/
  font : List Byte
  /-- `DISPLAY_W`: framebuffer columns. -/
  displayW : Nat
  /-- `DISPLAY_H`: framebuffer rows. -/
  displayH : Nat
  /-- `SHIFT_SRC`. -/
  shiftSrc : ShiftSrc
  /-- `VF_ORDER`. -/
  vfOrder : VfOrder
  deriving DecidableEq, Repr

/-- The constraints R6 lists for any configuration, and the font's length (R47: 16 glyphs). -/
def Config.wf (c : Config) : Bool :=
  decide (c.memSize ≤ 65536) && decide (c.pcInit + 2 ≤ c.memSize)
    && decide (c.fontBase + 16 * c.glyphBytes ≤ c.pcInit)
    && decide (c.font.length = 16 * c.glyphBytes)
    && decide (1 ≤ c.displayW) && decide (1 ≤ c.displayH)

/-- FREE VALUE: the random input of the `n`-th Cycle event whose `rnd` the state's event list does not give (R51, D18).
It has no body: nothing can be proved of its values. -/
opaque Config.freeRnd : Nat → Byte

end Sys2Proof
end

