-- ==== Sys2Proof/Machine/Standard.lean ====
section
/-! DEFINITION. The standard configuration of 00_scope.md R6, the font table of 10_state.md R47,
and the reset contents of memory they give. -/

namespace Sys2Proof

/-- The 80 bytes of R47, glyphs 0..F in order, 5 bytes each (decision D10; PRESUMED, unsafe: log 7). -/
def fontTable : List Byte :=
  [0xF0, 0x90, 0x90, 0x90, 0xF0] ++ [0x20, 0x60, 0x20, 0x20, 0x70] ++
  [0xF0, 0x10, 0xF0, 0x80, 0xF0] ++ [0xF0, 0x10, 0xF0, 0x10, 0xF0] ++
  [0x90, 0x90, 0xF0, 0x10, 0x10] ++ [0xF0, 0x80, 0xF0, 0x10, 0xF0] ++
  [0xF0, 0x80, 0xF0, 0x90, 0xF0] ++ [0xF0, 0x10, 0x20, 0x40, 0x40] ++
  [0xF0, 0x90, 0xF0, 0x90, 0xF0] ++ [0xF0, 0x90, 0xF0, 0x10, 0xF0] ++
  [0xF0, 0x90, 0xF0, 0x90, 0x90] ++ [0xE0, 0x90, 0xE0, 0x90, 0xE0] ++
  [0xF0, 0x80, 0x80, 0x80, 0xF0] ++ [0xE0, 0x90, 0x90, 0x90, 0xE0] ++
  [0xF0, 0x80, 0xF0, 0x80, 0xF0] ++ [0xF0, 0x80, 0xF0, 0x80, 0x80]

/-- The standard value of every parameter (R6). The display size is decision D9, `shiftSrc` D12, `vfOrder` D13 (PRESUMED,
unsafe for a claim about `Config.std` alone: log 7 and log 12). -/
def Config.std : Config where
  memSize := 4096
  stackCap := 16
  pcInit := 512
  fontBase := 0
  glyphBytes := 5
  font := fontTable
  displayW := 64
  displayH := 32
  shiftSrc := .vx
  vfOrder := .flagLast

/-- What `mem[a]` holds after Reset (R46, R47): the font at `FONT_BASE`, zero elsewhere (D8). It is also what an address
the memory list does not mention reads as. -/
def Config.initByte (c : Config) (a : Nat) : Byte :=
  if c.fontBase ≤ a then c.font.getD (a - c.fontBase) 0 else 0

end Sys2Proof
end

