-- ==== Sys2Proof/Machine/State.lean ====
section
/-! DEFINITION. The machine's state (10_state.md section 1), the environment's events and the outputs they emit
(R49 to R56), and the state after Reset (R46). State is plain data. -/

namespace Sys2Proof.Machine

/-- A key identifier 0x0..0xF (R34, R53). -/
abbrev Key := Fin 16

/-- `mem` (R42) as the cells that differ from their reset contents (`Config.initByte`): addresses strictly rising, no
cell equal to its reset contents (`Memory.wf`). An address not listed reads as its reset contents. -/
abbrev Memory := List Host.Cell

/-- `fb` (R35) as the indices `y * DISPLAY_W + x` of the cells that are 1, strictly rising. A cell not listed is 0. -/
abbrev FrameBuffer := List Nat

/-- `WAIT` (R40): AwaitingKey when `valid`, and then `reg` receives the key. -/
structure WaitLatch where
  valid : Bool
  reg : Reg
  deriving DecidableEq, Repr

/-- `FAULT.cause` (R241). -/
inductive Cause where
  /-- code 0, the reset value -/
  | none
  /-- code 1: decode selects nothing; `info` is the word -/
  | badInstruction
  /-- code 2: an access at or above `MEM_SIZE`; `info` is its lowest out-of-range address -/
  | outOfBounds
  /-- code 3: 2NNN on a full stack; `info` is the value not pushed -/
  | stackOverflow
  /-- code 4: 00EE on an empty stack; `info` is 0 -/
  | stackUnderflow
  /-- code 5: EX9E or EXA1 with `V[X]` above 15; `info` is `V[X]` -/
  | keyOutOfBounds
  deriving DecidableEq, Repr

/-- `FAULT` (R41): the sticky fault latch. -/
structure FaultLatch where
  valid : Bool
  cause : Cause
  info : BitVec 17
  deriving DecidableEq, Repr

/-- The six events the environment delivers (R49), each one atomic transition. -/
inductive Event where
  /-- R50 -/
  | reset
  /-- R54 -/
  | romLoad (bytes : List Byte)
  /-- R51, with its 8-bit input -/
  | cycle (rnd : Byte)
  /-- R52 -/
  | delayTick
  /-- R52 -/
  | soundTick
  /-- R53: key number, and whether it is a press -/
  | keyEvent (k : Key) (pressed : Bool)
  deriving DecidableEq, Repr

/-- The answers an event sends outward: they change no state of the machine (R52, R54). -/
inductive Output where
  /-- `DT` reached 0 by ticking (R52) -/
  | delayZero
  /-- `ST` reached 0 by ticking (R52) -/
  | soundZero
  /-- a RomLoad was refused (R54, R252) -/
  | romTooLarge
  deriving DecidableEq, Repr

/-- Everything the spec gives the machine (10_state.md section 1), the parameters it is built with (R6), and the model's
own fields for the environment's side of the ports (`inbox`, `rndIn`, `draws`, `out`). -/
structure State where
  /-- the parameters of R6; no event changes them (held here by DESIGN CHOICE, safe: log 1) -/
  cfg : Config
  /-- `mem` (R42, R60) -/
  mem : Memory
  /-- `V0` .. `VF` (R20) -/
  V : Vector Byte 16
  /-- `K`, the key-state file (R34) -/
  K : Vector Bool 16
  /-- `stack` cells, `STACK_CAP` of them (R28) -/
  stack : List Word
  /-- `sp`, the number of entries in use (R28) -/
  sp : Nat
  /-- `pc` (R24) -/
  pc : Word
  /-- `I` (R31) -/
  I : Word
  /-- `DT` (R32) -/
  DT : Byte
  /-- `ST` (R33) -/
  ST : Byte
  /-- `fb` (R35) -/
  fb : FrameBuffer
  /-- `DIRTY` (R39) -/
  dirty : Bool
  /-- `WAIT` (R40) -/
  wait : WaitLatch
  /-- `FAULT` (R41) -/
  fault : FaultLatch
  /-- MODEL'S OWN: the events the environment delivers next, first one first; when it is empty every event is a Cycle
  (DESIGN CHOICE, safe over all states: log 2) -/
  inbox : List Event
  /-- MODEL'S OWN: the `rnd` input of the Cycle being executed; none when no event gave it (`Config.freeRnd`)
  (DESIGN CHOICE, safe: log 3) -/
  rndIn : Option Byte
  /-- MODEL'S OWN: how many Cycles have taken a free `rnd` (DESIGN CHOICE, safe: log 3) -/
  draws : Nat
  /-- MODEL'S OWN: what the last event sent outward (DESIGN CHOICE, safe: log 4) -/
  out : Option Output
  deriving DecidableEq, Repr

/-- The machine stops with a fault: never. Every fault of the spec is a NEXT state in which `FAULT` is set (R246), and a
faulted machine still takes events (R250), so this type has no constructor (DESIGN CHOICE, safe: log 5). -/
inductive Fault where
  deriving DecidableEq, Repr

/-- Why an instruction has no meaning. -/
inductive Refusal where
  /-- Raised by `exec` for an instruction the model does not give a meaning to; safe. No arm raises it: all 35
  instructions have their meaning. -/
  | notModelled (mnemonic : String)
  deriving DecidableEq, Repr

/-- The state after Reset with parameters `c` (R45, R46): pc at `PC_INIT`, Running, not faulted, the font in memory,
zero everywhere else (decision D8; DESIGN CHOICE, unsafe: log 9). -/
def State.resetWith (c : Config) : State where
  cfg := c
  mem := []
  V := Vector.replicate 16 0
  K := Vector.replicate 16 false
  stack := List.replicate c.stackCap 0
  sp := 0
  pc := BitVec.ofNat 16 c.pcInit
  I := 0
  DT := 0
  ST := 0
  fb := []
  dirty := false
  wait := { valid := false, reg := 0 }
  fault := { valid := false, cause := .none, info := 0 }
  inbox := []
  rndIn := none
  draws := 0
  out := none

/-- The machine right after Reset in the standard configuration (R46, R6). -/
def State.reset : State := State.resetWith Config.std

end Sys2Proof.Machine
end

