-- ==== Sys2Proof/Machine/Ops.lean ====
section
/-! DEFINITION. The named operations over the state: one update per field, the memory, register, stack and framebuffer
primitives of 00_scope.md R10, raising a fault (60_exceptions.md R246), and the instruction fetch (20_memory.md R65). -/

namespace Sys2Proof.Machine

/-! ### Memory as a list in canonical form -/

/-- The byte at `a`: the listed one, else its reset contents. -/
def Memory.read (c : Config) : Memory → Nat → Byte
  | [], a => c.initByte a
  | (b, u) :: rest, a => if a = b then u else Memory.read c rest a

/-- One cell in front of a list whose addresses are all higher; left out when it holds its reset contents. -/
def Memory.cons (c : Config) (a : Nat) (v : Byte) (m : Memory) : Memory :=
  if v = c.initByte a then m else (a, v) :: m

/-- `mem[a] <- v`, keeping the canonical form. -/
def Memory.write (c : Config) : Memory → Nat → Byte → Memory
  | [], a, v => Memory.cons c a v []
  | (b, u) :: rest, a, v =>
    if a < b then Memory.cons c a v ((b, u) :: rest)
    else if a = b then Memory.cons c a v rest
    else (b, u) :: Memory.write c rest a v

/-! ### The framebuffer as the list of its set cells -/

/-- Whether cell `i` is 1. -/
def FrameBuffer.lit (fb : FrameBuffer) (i : Nat) : Bool := fb.contains i

/-- XOR cell `i` with 1. -/
def FrameBuffer.toggle : FrameBuffer → Nat → FrameBuffer
  | [], i => [i]
  | j :: rest, i =>
    if i < j then i :: j :: rest
    else if i = j then rest
    else j :: FrameBuffer.toggle rest i

/-! ### The stack's cells -/

/-- Stack cell `i`; a cell the list does not reach holds its reset value 0 (R46). -/
def stackRead : List Word → Nat → Word
  | [], _ => 0
  | w :: _, 0 => w
  | _ :: rest, i + 1 => stackRead rest i

/-- `stack[i] <- v`. -/
def stackWrite : List Word → Nat → Word → List Word
  | [], 0, v => [v]
  | [], i + 1, v => 0 :: stackWrite [] i v
  | _ :: rest, 0, v => v :: rest
  | w :: rest, i + 1, v => w :: stackWrite rest i v

namespace State

/-! ### One update per field -/

/-- `V[r]` (R20). -/
def readV (s : State) (r : Reg) : Byte := s.V.get r
/-- `V[r] <- v`: `v` is already 8 bits wide (R21). -/
def writeV (s : State) (r : Reg) (v : Byte) : State := { s with V := s.V.set r v }
/-- `K[k]` (R34). -/
def readK (s : State) (k : Key) : Bool := s.K.get k
/-- `K[k] <- p`; only a KeyEvent does it (R34, R53). -/
def writeK (s : State) (k : Key) (p : Bool) : State := { s with K := s.K.set k p }
/-- `pc <- a` (R24). -/
def setPc (s : State) (a : Word) : State := { s with pc := a }
/-- `I <- a` (R31). -/
def setI (s : State) (a : Word) : State := { s with I := a }
/-- `DT <- v` (R32). -/
def setDT (s : State) (v : Byte) : State := { s with DT := v }
/-- `ST <- v` (R33). -/
def setST (s : State) (v : Byte) : State := { s with ST := v }
/-- `DIRTY <- b` (R39). -/
def setDirty (s : State) (b : Bool) : State := { s with dirty := b }
/-- `fb <- f`. -/
def setFb (s : State) (f : FrameBuffer) : State := { s with fb := f }
/-- `WAIT <- w` (R40). -/
def setWait (s : State) (w : WaitLatch) : State := { s with wait := w }
/-- `FAULT <- f` (R41). -/
def setFault (s : State) (f : FaultLatch) : State := { s with fault := f }
/-- `stack[i] <- v`. -/
def writeStack (s : State) (i : Nat) (v : Word) : State := { s with stack := stackWrite s.stack i v }
/-- `sp <- n` (R28). -/
def setSp (s : State) (n : Nat) : State := { s with sp := n }
/-- `mem[a] <- v`, for an address already checked against `MEM_SIZE`. -/
def poke (s : State) (a : Nat) (v : Byte) : State := { s with mem := s.mem.write s.cfg a v }
/-- `mem[a]`, for an address already checked against `MEM_SIZE`. -/
def peek (s : State) (a : Nat) : Byte := s.mem.read s.cfg a
/-- The environment's events still to come. -/
def setInbox (s : State) (es : List Event) : State := { s with inbox := es }
/-- The `rnd` input of the Cycle about to be executed. -/
def setRndIn (s : State) (r : Option Byte) : State := { s with rndIn := r }
/-- Count one more free `rnd`. -/
def setDraws (s : State) (n : Nat) : State := { s with draws := n }
/-- What the event in progress sends outward. -/
def setOut (s : State) (o : Option Output) : State := { s with out := o }

/-! ### The program counter (R25) -/

/-- `pc <- pc0 + 2`, the end of every instruction that neither jumps nor skips. -/
def advance (s : State) : State := s.setPc (s.pc + 2)

/-- `pc <- pc0 + 4` when the condition holds, else `pc0 + 2` (R140). -/
def skipIf (s : State) (cond : Bool) : State := s.setPc (if cond then s.pc + 4 else s.pc + 2)

/-! ### Memory access (R61 to R64); an error is the address `OutOfBounds` records -/

/-- `MemRead(a, 1)` (R61). -/
def load8 (s : State) (a : Nat) : Except Nat Byte :=
  if a < s.cfg.memSize then .ok (s.peek a) else .error a

/-- `MemRead(a, 2)`, big-endian; the error is the lower of its two addresses that is out of range (R62). -/
def load16 (s : State) (a : Nat) : Except Nat Word :=
  if a + 1 < s.cfg.memSize then .ok (Word.ofBytes (s.peek a) (s.peek (a + 1)))
  else .error (if s.cfg.memSize ≤ a then a else a + 1)

/-- `MemWrite(a, 1, v)` (R63). -/
def store8 (s : State) (a : Nat) (v : Byte) : Except Nat State :=
  if a < s.cfg.memSize then .ok (s.poke a v) else .error a

/-- Instruction fetch is `MemRead(pc, 2)` (R65). -/
def fetch (s : State) : Except Nat Word := s.load16 s.pc.toNat

/-- The bytes at `a`, `a + 1`, …, `a + n - 1`, for a range already checked (R70). -/
def peekRange (s : State) (a : Nat) : Nat → List Byte
  | 0 => []
  | n + 1 => s.peek a :: peekRange s (a + 1) n

/-- Byte `j` of the list to `mem[a + j]`, ascending, for a range already checked (R70). -/
def pokeRange (s : State) (a : Nat) : List Byte → State
  | [] => s
  | v :: vs => pokeRange (s.poke a v) (a + 1) vs

/-- `V[r], V[r + 1], …` of register numbers below 16, ascending. -/
def readRegs (s : State) (r : Nat) : Nat → List Byte
  | 0 => []
  | n + 1 => s.readV (Fin.ofNat 16 r) :: readRegs s (r + 1) n

/-- Byte `j` of the list to `V[r + j]`, ascending. -/
def writeRegs (s : State) (r : Nat) : List Byte → State
  | [] => s
  | v :: vs => writeRegs (s.writeV (Fin.ofNat 16 r) v) (r + 1) vs

/-! ### The framebuffer (R35 to R38) -/

/-- The cell of column `x`, row `y`, each coordinate wrapped on its own axis (R36). -/
def pixel (c : Config) (x y : Nat) : Nat := (y % c.displayH) * c.displayW + x % c.displayW

/-- `FbGet(x, y)` (R36). -/
def fbGet (s : State) (x y : Nat) : Bool := s.fb.lit (pixel s.cfg x y)

/-- `FbFlip(x, y)`: XOR with 1 and mark dirty (R37). -/
def fbFlip (s : State) (x y : Nat) : State := (s.setFb (s.fb.toggle (pixel s.cfg x y))).setDirty true

/-- `FbClear()`: zero every cell and mark dirty (R38). -/
def fbClear (s : State) : State := (s.setFb []).setDirty true

/-! ### Faults (R246) -/

/-- `raise <Fault>(info)`: set the latch and change nothing else; pc stays at the faulting instruction. The spec has no
handler and no return (R251). -/
def raise (s : State) (c : Cause) (info : Nat) : State :=
  s.setFault { valid := true, cause := c, info := BitVec.ofNat 17 info }

end State

/-- The code of a cause as the status port shows it (R241). -/
def Cause.code : Cause → BitVec 3
  | .none => 0
  | .badInstruction => 1
  | .outOfBounds => 2
  | .stackOverflow => 3
  | .stackUnderflow => 4
  | .keyOutOfBounds => 5

/-! ### The stack (R28, R29); an error is the state with the fault raised -/

/-- `Push(v)`: the check before any write (R28). -/
def State.push (s : State) (v : Word) : Except State State :=
  if s.sp = s.cfg.stackCap then .error (s.raise .stackOverflow v.toNat)
  else .ok ((s.writeStack s.sp v).setSp (s.sp + 1))

/-- `Pop()`: the popped cell keeps its value (R29). -/
def State.pop (s : State) : Except State (Word × State) :=
  if s.sp = 0 then .error (s.raise .stackUnderflow 0)
  else .ok (stackRead s.stack (s.sp - 1), s.setSp (s.sp - 1))

/-- The end of an instruction: its next state. A raised fault is one too (R246). -/
abbrev Result := Host.Outcome State Fault Refusal

end Sys2Proof.Machine
end

