-- ==== Sys2Proof/Machine/Operands.lean ====
section
/-! DEFINITION. The operand forms (30_encoding.md R93; 42_load_alu.md R150, R159, R162; 43_index_memory.md R180, R184;
45_keypad_timers.md R221; 20_memory.md R64, R70). -/

namespace Sys2Proof.Machine

/-- NNN as an absolute byte address, zero-extended (R93). -/
def addrOf (nnn : Addr12) : Word := nnn.setWidth 16

/-- The effective address `I + k`, a mathematical sum, not wrapped (R64, R180). -/
def State.ea (s : State) (k : Nat) : Nat := s.I.toNat + k

/-- The bounds check of an instruction that touches `n` bytes at `I`: the address `OutOfBounds` records,
`max(I, MEM_SIZE)`, when a byte of a nonempty range is out of range (R70, R180, R202). -/
def State.rangeFault (s : State) (n : Nat) : Option Nat :=
  if 0 < n ∧ s.cfg.memSize ≤ s.ea (n - 1) then some (max s.I.toNat s.cfg.memSize) else none

/-- `V[X]` as a key number; none above 15 (R221). -/
def keyOf (v : Byte) : Option Key :=
  if h : v.toNat < 16 then some ⟨v.toNat, h⟩ else none

/-- The register 8XY6 and 8XYE shift, by `SHIFT_SRC` (R159, R161). -/
def shiftOperand (c : Config) (x y : Reg) : Reg :=
  match c.shiftSrc with
  | .vx => x
  | .vy => y

/-- The decimal digits of a byte: hundreds, tens, ones (R167, R184). -/
def bcdDigits (v : Byte) : List Byte :=
  [BitVec.ofNat 8 (v.toNat / 100), BitVec.ofNat 8 (v.toNat / 10 % 10), BitVec.ofNat 8 (v.toNat % 10)]

/-- The address of glyph `v`: `FONT_BASE + v * GLYPH_BYTES` (R183). -/
def glyphAddr (c : Config) (v : Byte) : Word := BitVec.ofNat 16 (c.fontBase + v.toNat * c.glyphBytes)

/-- The `rnd` input of this Cycle: the event's, or a free value (R51, R162). -/
def State.rnd (s : State) : Byte := s.rndIn.getD (Config.freeRnd s.draws)

/-! ### Sprites (R202, R204) -/

/-- The points under the set bits of sprite row `b` at column `x0`, row `y`, leftmost first; bit 7 is leftmost. -/
def spriteRow (x0 y : Nat) (b : Byte) : List (Nat × Nat) :=
  ((List.range 8).filter fun c => b.getLsbD (7 - c)).map fun c => (x0 + c, y)

/-- The points under the set bits of a sprite, top row first. -/
def spritePoints (x0 : Nat) : Nat → List Byte → List (Nat × Nat)
  | _, [] => []
  | y, b :: rest => spriteRow x0 y b ++ spritePoints x0 (y + 1) rest

end Sys2Proof.Machine
end

