-- ==== Sys2Proof/Machine/Flags.lean ====
section
/-! DEFINITION. The flag computations (10_state.md R22, R23): VF is the only flag storage, and every flag is 0 or 1. -/

namespace Sys2Proof.Machine

/-- A flag as the byte VF receives (R22). -/
def flagByte (b : Bool) : Byte := if b then 1 else 0

/-- 8XY4: the carry out of bit 7 (R157). -/
def carryFlag (a b : Byte) : Bool := decide (255 < a.toNat + b.toNat)

/-- 8XY5 and 8XY7: no borrow in `a - b` (R158, R160). -/
def noBorrowFlag (a b : Byte) : Bool := decide (b.toNat ≤ a.toNat)

/-- 8XY6: the bit shifted out on the right (R159). -/
def lsbFlag (v : Byte) : Bool := v.getLsbD 0

/-- 8XYE: the bit shifted out on the left (R161). -/
def msbFlag (v : Byte) : Bool := v.getLsbD 7

/-- FX1E: the unreduced sum reached the memory size (R182). -/
def pastMemoryFlag (c : Config) (sum : Nat) : Bool := decide (c.memSize ≤ sum)

/-- A result to VX and a flag to VF in the order `VF_ORDER` names (R23, R150): the order shows only when X = F. -/
def State.writeResultFlag (s : State) (x : Reg) (result : Byte) (flag : Bool) : State :=
  match s.cfg.vfOrder with
  | .flagLast => (s.writeV x result).writeV Reg.vf (flagByte flag)
  | .resultLast => (s.writeV Reg.vf (flagByte flag)).writeV x result

end Sys2Proof.Machine
end

