-- ==== Sys2Proof/Machine/Alu.lean ====
section
/-! DEFINITION. Register load, arithmetic, logic, shift, random: 6XNN, 7XNN, 8XY0 to 8XYE, CXNN (42_load_alu.md). Every
source is read from the state before the instruction (R150). -/

namespace Sys2Proof.Machine

/-- 6XNN `LD Vx, nn` (R151). -/
def execLdVxNn (x : Reg) (nn : Byte) (s : State) : Result :=
  .next (s.writeV x nn).advance

/-- 7XNN `ADD Vx, nn` (R152): mod 256, VF not written. -/
def execAddVxNn (x : Reg) (nn : Byte) (s : State) : Result :=
  .next (s.writeV x (s.readV x + nn)).advance

/-- 8XY0 `LD Vx, Vy` (R153). -/
def execLdVxVy (x y : Reg) (s : State) : Result :=
  .next (s.writeV x (s.readV y)).advance

/-- 8XY1 `OR Vx, Vy` (R154). -/
def execOr (x y : Reg) (s : State) : Result :=
  .next (s.writeV x (s.readV x ||| s.readV y)).advance

/-- 8XY2 `AND Vx, Vy` (R155). -/
def execAnd (x y : Reg) (s : State) : Result :=
  .next (s.writeV x (s.readV x &&& s.readV y)).advance

/-- 8XY3 `XOR Vx, Vy` (R156). -/
def execXor (x y : Reg) (s : State) : Result :=
  .next (s.writeV x (s.readV x ^^^ s.readV y)).advance

/-- 8XY4 `ADD Vx, Vy` (R157). -/
def execAddVxVy (x y : Reg) (s : State) : Result :=
  .next (s.writeResultFlag x (s.readV x + s.readV y) (carryFlag (s.readV x) (s.readV y))).advance

/-- 8XY5 `SUB Vx, Vy` (R158). -/
def execSub (x y : Reg) (s : State) : Result :=
  .next (s.writeResultFlag x (s.readV x - s.readV y) (noBorrowFlag (s.readV x) (s.readV y))).advance

/-- 8XY6 `SHR Vx, Vy` (R159): one bit, logical. -/
def execShr (x y : Reg) (s : State) : Result :=
  let v := s.readV (shiftOperand s.cfg x y)
  .next (s.writeResultFlag x (v >>> 1) (lsbFlag v)).advance

/-- 8XY7 `SUBN Vx, Vy` (R160). -/
def execSubn (x y : Reg) (s : State) : Result :=
  .next (s.writeResultFlag x (s.readV y - s.readV x) (noBorrowFlag (s.readV y) (s.readV x))).advance

/-- 8XYE `SHL Vx, Vy` (R161): one bit, mod 256. -/
def execShl (x y : Reg) (s : State) : Result :=
  let v := s.readV (shiftOperand s.cfg x y)
  .next (s.writeResultFlag x (v <<< 1) (msbFlag v)).advance

/-- CXNN `RND Vx, nn` (R162). -/
def execRnd (x : Reg) (nn : Byte) (s : State) : Result :=
  .next (s.writeV x (s.rnd &&& nn)).advance

end Sys2Proof.Machine
end

