-- ==== Sys2Proof/Machine/Display.lean ====
section
/-! DEFINITION. Display: 00E0, DXYN (44_display.md). -/

namespace Sys2Proof.Machine

/-- 00E0 `CLS` (R201). -/
def execCls (s : State) : Result := .next s.fbClear.advance

/-- One set sprite bit: `hit` if the pixel goes 1 to 0, then flip it (R202). -/
def drawPoint (acc : State × Bool) (p : Nat × Nat) : State × Bool :=
  (acc.1.fbFlip p.1 p.2, acc.2 || acc.1.fbGet p.1 p.2)

/-- Every set sprite bit in order, from `hit = 0` (R202). -/
def drawPoints (s : State) (ps : List (Nat × Nat)) : State × Bool := ps.foldl drawPoint (s, false)

/-- DXYN `DRW Vx, Vy, n` (R202): N sprite bytes at I, XORed at column V[X], row V[Y]; VF is the collision. -/
def execDrw (x y : Reg) (n : Nibble) (s : State) : Result :=
  match s.rangeFault n.toNat with
  | some a => .next (s.raise .outOfBounds a)
  | none =>
    let rows := s.peekRange (s.ea 0) n.toNat
    let drawn := drawPoints s (spritePoints (s.readV x).toNat (s.readV y).toNat rows)
    .next (drawn.1.writeV Reg.vf (flagByte drawn.2)).advance

end Sys2Proof.Machine
end

