-- ==== Sys2Proof/Machine/Flow.lean ====
section
/-! DEFINITION. Control transfer: 00EE, 0NNN, 1NNN, 2NNN, BNNN (40_flow.md). -/

namespace Sys2Proof.Machine

/-- 00EE `RET` (R121): the popped value is the call's own address, so pc is it plus 2. -/
def execRet (s : State) : Result :=
  match s.pop with
  | .ok (t, s') => .next (s'.setPc (t + 2))
  | .error f => .next f

/-- 0NNN `SYS` (R122): NNN has no effect. -/
def execSys (_nnn : Addr12) (s : State) : Result := .next s.advance

/-- 1NNN `JP` (R123). -/
def execJp (nnn : Addr12) (s : State) : Result := .next (s.setPc (addrOf nnn))

/-- 2NNN `CALL` (R124): it pushes its own address. -/
def execCall (nnn : Addr12) (s : State) : Result :=
  match s.push s.pc with
  | .ok s' => .next (s'.setPc (addrOf nnn))
  | .error f => .next f

/-- BNNN `JP V0` (R125): the offset register is always V0 and the sum is not reduced to 12 bits. -/
def execJpV0 (nnn : Addr12) (s : State) : Result :=
  .next (s.setPc (addrOf nnn + (s.readV Reg.v0).setWidth 16))

end Sys2Proof.Machine
end

