-- ==== Sys2Proof/Machine/Index.lean ====
section
/-! DEFINITION. Index register and memory transfer: ANNN, FX1E, FX29, FX33, FX55, FX65 (43_index_memory.md). A transfer
checks its whole range before its first write (20_memory.md R70) and leaves I unchanged (R180). -/

namespace Sys2Proof.Machine

/-- ANNN `LD I, nnn` (R181). -/
def execLdINnn (nnn : Addr12) (s : State) : Result :=
  .next (s.setI (addrOf nnn)).advance

/-- FX1E `ADD I, Vx` (R182): the flag compares the unreduced sum with `MEM_SIZE`. -/
def execAddIVx (x : Reg) (s : State) : Result :=
  let sum := s.I.toNat + (s.readV x).toNat
  .next (((s.setI (BitVec.ofNat 16 sum)).writeV Reg.vf (flagByte (pastMemoryFlag s.cfg sum))).advance)

/-- FX29 `LD F, Vx` (R183): the whole byte is multiplied. -/
def execLdFVx (x : Reg) (s : State) : Result :=
  .next (s.setI (glyphAddr s.cfg (s.readV x))).advance

/-- FX33 `LD B, Vx` (R184): three decimal digits at I. -/
def execLdBVx (x : Reg) (s : State) : Result :=
  match s.rangeFault 3 with
  | some a => .next (s.raise .outOfBounds a)
  | none => .next (s.pokeRange (s.ea 0) (bcdDigits (s.readV x))).advance

/-- FX55 `LD [I], Vx` (R185): V0..VX to memory, X + 1 bytes. -/
def execLdMiVx (x : Reg) (s : State) : Result :=
  match s.rangeFault (x.val + 1) with
  | some a => .next (s.raise .outOfBounds a)
  | none => .next (s.pokeRange (s.ea 0) (s.readRegs 0 (x.val + 1))).advance

/-- FX65 `LD Vx, [I]` (R186): X + 1 bytes of memory to V0..VX. -/
def execLdVxMi (x : Reg) (s : State) : Result :=
  match s.rangeFault (x.val + 1) with
  | some a => .next (s.raise .outOfBounds a)
  | none => .next (s.writeRegs 0 (s.peekRange (s.ea 0) (x.val + 1))).advance

end Sys2Proof.Machine
end

