-- ==== Sys2Proof/Machine/Keypad.lean ====
section
/-! DEFINITION. Keypad and timers: EX9E, EXA1, FX07, FX0A, FX15, FX18 (45_keypad_timers.md). -/

namespace Sys2Proof.Machine

/-- EX9E `SKP Vx` (R221). -/
def execSkp (x : Reg) (s : State) : Result :=
  match keyOf (s.readV x) with
  | none => .next (s.raise .keyOutOfBounds (s.readV x).toNat)
  | some k => .next (s.skipIf (s.readK k))

/-- EXA1 `SKNP Vx` (R222). -/
def execSknp (x : Reg) (s : State) : Result :=
  match keyOf (s.readV x) with
  | none => .next (s.raise .keyOutOfBounds (s.readV x).toNat)
  | some k => .next (s.skipIf (!s.readK k))

/-- FX07 `LD Vx, DT` (R223). -/
def execLdVxDt (x : Reg) (s : State) : Result := .next (s.writeV x s.DT).advance

/-- FX0A `LD Vx, K` (R224): enter AwaitingKey; the cycle still advances pc. -/
def execLdVxK (x : Reg) (s : State) : Result :=
  .next (s.setWait { valid := true, reg := x }).advance

/-- FX15 `LD DT, Vx` (R225). -/
def execLdDtVx (x : Reg) (s : State) : Result := .next (s.setDT (s.readV x)).advance

/-- FX18 `LD ST, Vx` (R226). -/
def execLdStVx (x : Reg) (s : State) : Result := .next (s.setST (s.readV x)).advance

end Sys2Proof.Machine
end

