-- ==== Sys2Proof/Machine/Skip.lean ====
section
/-! DEFINITION. Conditional skips on registers: 3XNN, 4XNN, 5XY0, 9XY0 (41_skip.md R140). -/

namespace Sys2Proof.Machine

/-- 3XNN `SE Vx, nn` (R141). -/
def execSeVxNn (x : Reg) (nn : Byte) (s : State) : Result :=
  .next (s.skipIf (decide (s.readV x = nn)))

/-- 4XNN `SNE Vx, nn` (R142). -/
def execSneVxNn (x : Reg) (nn : Byte) (s : State) : Result :=
  .next (s.skipIf (decide (s.readV x ≠ nn)))

/-- 5XY0 `SE Vx, Vy` (R143). -/
def execSeVxVy (x y : Reg) (s : State) : Result :=
  .next (s.skipIf (decide (s.readV x = s.readV y)))

/-- 9XY0 `SNE Vx, Vy` (R144). -/
def execSneVxVy (x y : Reg) (s : State) : Result :=
  .next (s.skipIf (decide (s.readV x ≠ s.readV y)))

end Sys2Proof.Machine
end

