-- ==== Sys2Proof/Machine/Events.lean ====
section
/-! DEFINITION. The environment's events other than Cycle: Reset, DelayTick, SoundTick, KeyEvent, RomLoad
(10_state.md R50, R52, R53, R54). Each is accepted in every machine state (R250). -/

namespace Sys2Proof.Machine.State

/-- Reset (R50): every piece of the machine's state to its reset value; what the environment still has to deliver stays. -/
def resetEvent (s : State) : State :=
  ((State.resetWith s.cfg).setInbox s.inbox).setDraws s.draws

/-- DelayTick (R52). -/
def delayTick (s : State) : State :=
  if s.DT = 0 then s
  else if s.DT = 1 then (s.setDT 0).setOut (some .delayZero)
  else s.setDT (s.DT - 1)

/-- SoundTick (R52). -/
def soundTick (s : State) : State :=
  if s.ST = 0 then s
  else if s.ST = 1 then (s.setST 0).setOut (some .soundZero)
  else s.setST (s.ST - 1)

/-- KeyEvent(k, p) (R53): a press ends AwaitingKey and delivers the key number. -/
def keyEvent (s : State) (k : Key) (pressed : Bool) : State :=
  let s' := s.writeK k pressed
  if s.wait.valid && pressed then
    (s'.writeV s.wait.reg (BitVec.ofNat 8 k.val)).setWait { s.wait with valid := false }
  else s'

/-- RomLoad (R54): all of the bytes, or a refusal on the port and no change. -/
def romLoad (s : State) (bytes : List Byte) : State :=
  if s.cfg.memSize < s.cfg.pcInit + bytes.length then s.setOut (some .romTooLarge)
  else s.pokeRange s.cfg.pcInit bytes

end Sys2Proof.Machine.State
end

