-- ==== Sys2Proof/Machine/Cycle.lean ====
section
/-! DEFINITION. The Cycle event (10_state.md R48, R51) and the delivery of events one at a time (R49). -/

namespace Sys2Proof.Machine.State

/-- Steps 1 to 5 of an executing cycle (R48): DIRTY cleared, fetch, decode, execute. A fault of fetch or decode is raised
in the state after step 1. -/
def runCycle (s : State) : Result :=
  let s1 := s.setDirty false
  match s1.fetch with
  | .error a => .next (s1.raise .outOfBounds a)
  | .ok w =>
    match decode w with
    | .ok i => exec i s1
    | .error _ => .next (s1.raise .badInstruction w.toNat)

/-- Cycle (R48): nothing at all while faulted or AwaitingKey. -/
def cycle (s : State) : Result :=
  if s.fault.valid then .next s
  else if s.wait.valid then .next s
  else s.runCycle

/-- One event (R49). -/
def deliver (s : State) : Event → Result
  | .reset => .next s.resetEvent
  | .romLoad bytes => .next (s.romLoad bytes)
  | .cycle r => (s.setRndIn (some r)).cycle
  | .delayTick => .next s.delayTick
  | .soundTick => .next s.soundTick
  | .keyEvent k p => .next (s.keyEvent k p)

/-- A Cycle event whose `rnd` is a free value (R51). -/
def freeCycle (s : State) : Result := ((s.setRndIn none).setDraws (s.draws + 1)).cycle

/-- The environment's next event: the first of `inbox`, or a Cycle when the list is empty. -/
def nextEvent (s : State) : Result :=
  match s.inbox with
  | [] => (s.setOut none).freeCycle
  | e :: es => ((s.setOut none).setInbox es).deliver e

/-- The state in which the next event is a Cycle that fetches: no event listed, Running, not faulted. -/
def readyToFetch (s : State) : State :=
  ((s.setInbox []).setWait { s.wait with valid := false }).setFault { s.fault with valid := false }

/-- `w` placed at pc, high byte first (R67), where both bytes exist. -/
def placeWord (s : State) (w : Word) : State :=
  if s.pc.toNat + 1 < s.cfg.memSize then s.pokeRange s.pc.toNat [w.hiByte, w.loByte] else s

end Sys2Proof.Machine.State
end

