-- ==== Sys2Proof/Machine/Step.lean ====
section
/-! DEFINITION. One step of the machine: the next event of the environment (10_state.md R49). -/

namespace Sys2Proof.Machine

/-- One event is delivered and completes (R49). -/
def step (s : State) : Host.Outcome State Fault Refusal := s.nextEvent

/-- `s` with the instruction whose bits are `w` (numbered as the opcode table numbers them) at pc, and the next event a
Cycle that fetches it. -/
def State.withFetchWord (s : State) (nbits w : Nat) : State :=
  s.readyToFetch.placeWord (BitVec.ofNat 16 (w % 2 ^ nbits))

end Sys2Proof.Machine
end

