-- ==== Sys2Proof/Machine/Frame.lean ====
section
/-! DEFINITION. The words the statements are written in: what each instruction may write, as the rules' "Writes" lines list it
(10_state.md R22, R57 and the rules of files 40 to 45), where it leaves pc (R25), and when it faults (60_exceptions.md R243 to
R248). The meanings do not use them. -/

namespace Sys2Proof

/-- The data registers the instruction may write: its destination, and VF where the rule lists it (R22). -/
def Instr.writesReg : Instr → Reg → Bool
  | .cls, _ => false
  | .ret, _ => false
  | .sys _, _ => false
  | .jp _, _ => false
  | .call _, _ => false
  | .seVxNn _ _, _ => false
  | .sneVxNn _ _, _ => false
  | .seVxVy _ _, _ => false
  | .ldVxNn x _, r => r == x
  | .addVxNn x _, r => r == x
  | .ldVxVy x _, r => r == x
  | .or x _, r => r == x
  | .and x _, r => r == x
  | .xor x _, r => r == x
  | .addVxVy x _, r => r == x || r == Reg.vf
  | .sub x _, r => r == x || r == Reg.vf
  | .shr x _, r => r == x || r == Reg.vf
  | .subn x _, r => r == x || r == Reg.vf
  | .shl x _, r => r == x || r == Reg.vf
  | .sneVxVy _ _, _ => false
  | .ldINnn _, _ => false
  | .jpV0 _, _ => false
  | .rnd x _, r => r == x
  | .drw _ _ _, r => r == Reg.vf
  | .skp _, _ => false
  | .sknp _, _ => false
  | .ldVxDt x, r => r == x
  | .ldVxK _, _ => false
  | .ldDtVx _, _ => false
  | .ldStVx _, _ => false
  | .addIVx _, r => r == Reg.vf
  | .ldFVx _, _ => false
  | .ldBVx _, _ => false
  | .ldMiVx _, _ => false
  | .ldVxMi x, r => decide (r ≤ x)

namespace Machine

/-- The bytes the instruction stores to, as first address and count, computed as its meaning computes them: FX33 three
bytes at I (R184), FX55 X + 1 bytes at I (R185), nothing else stores (R68). -/
def storeRange (i : Instr) (s : State) : Option (Nat × Nat) :=
  match i with
  | .ldBVx _ => some (s.ea 0, 3)
  | .ldMiVx x => some (s.ea 0, x.val + 1)
  | _ => none

/-- The next event of `s` is a Cycle, the first listed or, with none listed, one whose `rnd` is free, and `u` is `s` with the
model's own fields as taking that event leaves them (R51; logs 2 to 4). -/
def TakesCycle (s u : State) : Prop :=
  (s.inbox = [] ∧ u = { s with rndIn := none, draws := s.draws + 1, out := none }) ∨
  ∃ r es, s.inbox = .cycle r :: es ∧ u = { s with rndIn := some r, inbox := es, out := none }

/-- `t` differs from `s` in data registers and pc only. -/
def OnlyRegsPc (s t : State) : Prop := t = { s with V := t.V, pc := t.pc }

/-- Every data register outside `ws` keeps its value. -/
def KeepsRegsBut (ws : List Reg) (s t : State) : Prop := ∀ r, r ∉ ws → t.readV r = s.readV r

/-- Every byte of memory outside the `n` bytes at `a` keeps its value. -/
def KeepsMemOutside (a n : Nat) (s t : State) : Prop := ∀ b, (b < a ∨ a + n ≤ b) → t.peek b = s.peek b

/-- The bit of the sprite at column `c`, row `r`: bit 7 of a byte is leftmost, the byte at the lowest address is the top
row (R204). -/
def spriteBit (s : State) (r c : Nat) : Bool := (s.peek (s.ea r)).getLsbD (7 - c)

/-- `s` with pc and data registers changed to those of `t`: a result to VX and a flag to VF, and pc advanced. VX holds the
result and VF the flag; when X = F only the one `VF_ORDER` writes last remains (R23, R150). -/
def ResultAndFlag (s t : State) (x : Reg) (result : Nat) (flag : Prop) [Decidable flag] : Prop :=
  OnlyRegsPc s t ∧ t.pc = s.pc + 2 ∧ KeepsRegsBut [x, Reg.vf] s t
    ∧ (t.readV x).toNat =
        (if x = Reg.vf ∧ s.cfg.vfOrder = .flagLast then (if flag then 1 else 0) else result)
    ∧ (t.readV Reg.vf).toNat =
        (if x = Reg.vf ∧ s.cfg.vfOrder = .resultLast then result else (if flag then 1 else 0))

/-- The instruction raises the fault and does nothing else: pc included, all but the latch is as before (R246). -/
def FaultsWith (i : Instr) (s : State) (c : Cause) (info : Nat) : Prop :=
  ∃ t, exec i s = .next t ∧ t = { s with fault := t.fault }
    ∧ t.fault.valid = true ∧ t.fault.cause = c ∧ t.fault.info.toNat = info

/-- The `OutOfBounds` of an instruction that touches `n` bytes at I (R243). -/
def boundsFault (s : State) (n : Nat) : Option (Cause × Nat) :=
  if 0 < n ∧ s.cfg.memSize < s.I.toNat + n then some (.outOfBounds, max s.I.toNat s.cfg.memSize) else none

/-- Which fault the instruction raises in the state, with its recorded value; the other 26 raise none (R243 to R248). -/
def faultOf (i : Instr) (s : State) : Option (Cause × Nat) :=
  match i with
  | .ret => if s.sp = 0 then some (.stackUnderflow, 0) else none
  | .call _ => if s.sp = s.cfg.stackCap then some (.stackOverflow, s.pc.toNat) else none
  | .drw _ _ n => boundsFault s n.toNat
  | .ldBVx _ => boundsFault s 3
  | .ldMiVx x => boundsFault s (x.val + 1)
  | .ldVxMi x => boundsFault s (x.val + 1)
  | .skp x => if 16 ≤ (s.readV x).toNat then some (.keyOutOfBounds, (s.readV x).toNat) else none
  | .sknp x => if 16 ≤ (s.readV x).toNat then some (.keyOutOfBounds, (s.readV x).toNat) else none
  | _ => none

/-- Whether key `v` is pressed, for a key number (R221). -/
def keyDown (s : State) (v : Byte) : Bool :=
  match keyOf v with
  | some k => s.readK k
  | none => false

/-- R25's table: pc at the end of a cycle that does not fault. -/
def netPc (i : Instr) (s : State) : Nat :=
  let skip (b : Bool) : Nat := (s.pc.toNat + if b then 4 else 2) % 65536
  match i with
  | .jp nnn => nnn.toNat
  | .call nnn => nnn.toNat
  | .jpV0 nnn => nnn.toNat + (s.readV 0).toNat
  | .ret => ((stackRead s.stack (s.sp - 1)).toNat + 2) % 65536
  | .seVxNn x nn => skip (s.readV x == nn)
  | .sneVxNn x nn => skip (s.readV x != nn)
  | .seVxVy x y => skip (s.readV x == s.readV y)
  | .sneVxVy x y => skip (s.readV x != s.readV y)
  | .skp x => skip (keyDown s (s.readV x))
  | .sknp x => skip (!keyDown s (s.readV x))
  | _ => (s.pc.toNat + 2) % 65536

end Machine

end Sys2Proof
end

