-- ==== Sys2Proof/Machine/Invariant.lean ====
section
/-! DEFINITION. The relations between fields of State that every event keeps: the canonical form of memory and
framebuffer (20_memory.md R60, 10_state.md R35) and the stack's bounds (R28). -/

namespace Sys2Proof.Machine

/-- Every element is below every later one. -/
def rising : List Nat → Bool
  | [] => true
  | a :: rest => rest.all (fun b => decide (a < b)) && rising rest

/-- The canonical form of memory: addresses strictly rising and below `MEM_SIZE`, no cell equal to its reset contents. -/
def Memory.wf (c : Config) (m : Memory) : Bool :=
  rising (m.map Prod.fst) && m.all (fun cell => decide (cell.1 < c.memSize) && decide (cell.2 ≠ c.initByte cell.1))

/-- The canonical form of the framebuffer: cell indices strictly rising and below `DISPLAY_W * DISPLAY_H`. -/
def FrameBuffer.wf (c : Config) (fb : FrameBuffer) : Bool :=
  rising fb && fb.all (fun i => decide (i < c.displayW * c.displayH))

/-- A state the machine can be in: parameters as R6 constrains them, canonical memory and framebuffer, `STACK_CAP` stack
cells and `sp` in [0, `STACK_CAP`] (R28). -/
def State.wf (s : State) : Bool :=
  s.cfg.wf && s.mem.wf s.cfg && s.fb.wf s.cfg && decide (s.stack.length = s.cfg.stackCap)
    && decide (s.sp ≤ s.cfg.stackCap)

/-- Every return address in use is the address of a word that could be fetched (R121: "only addresses of successfully
fetched instructions … are ever pushed"). -/
def State.returnsFetchable (s : State) : Bool :=
  (List.range s.sp).all fun i => decide ((stackRead s.stack i).toNat + 1 < s.cfg.memSize)

end Sys2Proof.Machine
end

