-- ==== Sys2Proof/Machine/Premises.lean ====
section
/-! DEFINITION. The host premises of 70_reset_and_hazards.md R306 as predicates on a schedule, the list of the events the
environment delivers in order. The step does not use them: the rules give every event a meaning in every state, and a claim
about a program takes the premises it needs as hypotheses (log 25). Premises (d) to (f) leave `rnd`, KeyEvents and ticks
free, so no definition stands for them: Laws/Premises.lean proves that these predicates constrain none of the three. -/

namespace Sys2Proof.Machine

/-- The ROM an event loads, if it is a RomLoad. -/
def Event.rom : Event → Option (List Byte)
  | .reset => none
  | .romLoad bytes => some bytes
  | .cycle _ => none
  | .delayTick => none
  | .soundTick => none
  | .keyEvent _ _ => none

/-- The event is a Cycle. -/
def Event.isCycle : Event → Bool
  | .reset => false
  | .romLoad _ => false
  | .cycle _ => true
  | .delayTick => false
  | .soundTick => false
  | .keyEvent _ _ => false

/-- The ROMs a schedule loads, in order. -/
def romLoads (evs : List Event) : List (List Byte) := evs.filterMap Event.rom

/-- A schedule from its first Cycle on: the part during which the program runs. -/
def fromFirstCycle (evs : List Event) : List Event := evs.dropWhile fun e => !e.isCycle

/-- R306 (a): exactly one Reset, first. -/
abbrev OneResetFirst (evs : List Event) : Prop := evs.head? = some .reset ∧ evs.count .reset = 1

/-- R306 (b): at most one RomLoad, and it is accepted (R54). That it comes after Reset follows from `OneResetFirst`, and that
it comes before the first Cycle from `NoRomLoadWhileRunning`. -/
abbrev OneAcceptedRomLoad (c : Config) (evs : List Event) : Prop :=
  (romLoads evs).length ≤ 1 ∧ ∀ bytes ∈ romLoads evs, c.pcInit + bytes.length ≤ c.memSize

/-- R306 (c): no RomLoad from the first Cycle on. -/
abbrev NoRomLoadWhileRunning (evs : List Event) : Prop := romLoads (fromFirstCycle evs) = []

/-- R306 (a) to (c) of a schedule that starts before the Reset, with the parameters `c`. The Cycles that follow an exhausted
`inbox` are neither Reset nor RomLoad, so a schedule that meets the premises meets them however long the machine runs on. -/
abbrev HostPremises (c : Config) (evs : List Event) : Prop :=
  OneResetFirst evs ∧ OneAcceptedRomLoad c evs ∧ NoRomLoadWhileRunning evs

/-- R306 (a) to (c) of the schedule that follows the Reset: for a run that starts in `State.reset`. -/
abbrev HostPremisesAfterReset (c : Config) (evs : List Event) : Prop := HostPremises c (.reset :: evs)

end Sys2Proof.Machine
end

