-- ==== Sys2Proof/Safety.lean ====
section
/-! DEFINITION. What counts as a safe run, in the words claims use: no fault is latched (60_exceptions.md R250 calls a
faulted state terminal and "gone wrong"). -/

namespace Sys2Proof.Machine

/-- Not faulted (R41). -/
abbrev Safe (s : State) : Prop := s.fault.valid = false

/-- Running (R40): neither AwaitingKey nor faulted, so the next Cycle executes. -/
abbrev Running (s : State) : Prop := s.fault.valid = false ∧ s.wait.valid = false

/-- AwaitingKey (R40). -/
abbrev AwaitingKey (s : State) : Prop := s.wait.valid = true

/-- The state after `n` events is reached and no fault is latched in it. The latch is sticky, so none was on the way
unless a Reset event cleared it. -/
def SafeAfter (n : Nat) (s : State) : Prop :=
  ∃ t, Sys2Proof.core.run n s = .next t ∧ Safe t

/-- The model's own notion of a finished program (R316 allows one and says it is not the machine's): pc holds the address
of a `1NNN` whose NNN is that address. -/
def Parked (s : State) : Prop :=
  ∃ w nnn, s.fetch = .ok w ∧ decode w = .ok (.jp nnn) ∧ nnn.setWidth 16 = s.pc

end Sys2Proof.Machine
end

