-- ==== Sys2Proof/Certificates/Slice0/Obligations.lean ====
section
/-! DEFINITION. The statements for the provers. Each docstring names the rule of spec/ the statement formalises. -/

open Sys2Proof Sys2Proof.Machine

/-! ### Encoding (30_encoding.md) -/

/-- Words written out from the opcode map and the spec's own examples decode to the instructions they stand for. -/
def Obligations.SpecWordsDecodeAsWritten : Prop :=
  decode 0b0000_0000_1110_0000#16 = .ok .cls ∧ decode 0b0000_0000_1110_1110#16 = .ok .ret ∧
  decode 0b0000_0000_1110_0001#16 = .ok (.sys 0x0E1) ∧ decode 0b0001_0010_0011_0100#16 = .ok (.jp 0x234) ∧
  decode 0b0011_0000_0001_0100#16 = .ok (.seVxNn 0 0x14) ∧ decode 0b0110_0000_0000_1010#16 = .ok (.ldVxNn 0 0x0A) ∧
  decode 0b1000_0001_0010_0100#16 = .ok (.addVxVy 1 2) ∧ decode 0b1010_0010_1111_0000#16 = .ok (.ldINnn 0x2F0) ∧
  decode 0b1101_0000_0001_0010#16 = .ok (.drw 0 1 2) ∧ decode 0b1110_0010_1001_1110#16 = .ok (.skp 2) ∧
  decode 0b1111_0100_0011_0011#16 = .ok (.ldBVx 4) ∧
  decode 0b1000_0001_0010_1000#16 = .error (.badInstruction 0x8128)

/-- Decoding the word of a well-formed instruction gives it back, with every operand at every value its field admits. -/
def Obligations.DecodeEncodeIsIdentity : Prop :=
  ∀ i : Instr, i.wf = true → decode (encode i) = .ok i

/-- A word that decodes is the word of the instruction it decodes to, and that instruction is well-formed: no two words share
an instruction (R99: no pattern has ignored bits but SYS, whose NNN the model keeps). -/
def Obligations.EncodeDecodeIsIdentity : Prop :=
  ∀ (w : Word) (i : Instr), decode w = .ok i → encode i = w ∧ i.wf = true

/-- R94: a word decodes to a row only if `(w & mask) == match` for it, and it decodes at all exactly when some row matches. The
matches 0x8001 to 0x8007 are the nibbles of decision D11 (R95, presumed: log 16), and that fixed digits are matched exactly is
decision D16 (log 16). -/
def Obligations.DecodeAgreesWithOpcodeMap : Prop :=
  ∀ w : Word,
    (∀ i, decode w = .ok i → w &&& opcodeMask i = opcodeMatch i) ∧
    ((∃ i, decode w = .ok i) ↔ ∃ j : Instr, w &&& opcodeMask j = opcodeMatch j)

/-- R97: the illegal words are exactly these five classes, and each is rejected with the raw word. -/
def Obligations.IllegalWordsAreExactlyTheListed : Prop :=
  ∀ w : Word,
    decode w = .error (.badInstruction w) ↔
      (fieldOP w = 0x5#4 ∧ fieldN w ≠ 0x0#4) ∨
      (fieldOP w = 0x8#4 ∧ ((8 ≤ (fieldN w).toNat ∧ (fieldN w).toNat ≤ 13) ∨ fieldN w = 0xF#4)) ∨
      (fieldOP w = 0x9#4 ∧ fieldN w ≠ 0x0#4) ∨
      (fieldOP w = 0xE#4 ∧ fieldNN w ∉ ([0x9E, 0xA1] : List Byte)) ∨
      (fieldOP w = 0xF#4 ∧ fieldNN w ∉ ([0x07, 0x0A, 0x15, 0x18, 0x1E, 0x29, 0x33, 0x55, 0x65] : List Byte))

/-! ### The cycle (10_state.md R48) -/

/-- R48: a Running machine whose two bytes at pc exist and decode runs that instruction in the state with DIRTY cleared. The
other changes are the model's own fields: the event is taken from `inbox`, or counted when `inbox` is empty. -/
def Obligations.StepRunsDecodedInstruction : Prop :=
  ∀ (s : State) (i : Instr), Running s → s.pc.toNat + 1 < s.cfg.memSize →
    decode (Word.ofBytes (s.peek s.pc.toNat) (s.peek (s.pc.toNat + 1))) = .ok i →
    (s.inbox = [] →
      step s = exec i { s with dirty := false, rndIn := none, draws := s.draws + 1, out := none }) ∧
    (∀ r es, s.inbox = .cycle r :: es →
      step s = exec i { s with dirty := false, rndIn := some r, inbox := es, out := none })

/-- R48 steps 2 and 4, R65, R242, R243: in a Cycle, listed or not, a fetch past the end of memory and a word that selects
nothing are latched as faults; all else but DIRTY (and the model's own fields) is as before the cycle, pc included. The latch
is decision D2, the fault on addresses out of range decision D4. -/
def Obligations.FetchAndDecodeFaultsAreLatched : Prop :=
  ∀ s u : State, Running s → TakesCycle s u →
    (s.cfg.memSize ≤ s.pc.toNat + 1 →
      ∃ t, step s = .next t ∧ t = { u with dirty := false, fault := t.fault } ∧
        t.fault.valid = true ∧ t.fault.cause = .outOfBounds ∧
        t.fault.info.toNat = if s.cfg.memSize ≤ s.pc.toNat then s.pc.toNat else s.pc.toNat + 1) ∧
    (∀ w, s.pc.toNat + 1 < s.cfg.memSize →
      w = Word.ofBytes (s.peek s.pc.toNat) (s.peek (s.pc.toNat + 1)) →
      decode w = .error (.badInstruction w) →
      ∃ t, step s = .next t ∧ t = { u with dirty := false, fault := t.fault } ∧
        t.fault.valid = true ∧ t.fault.cause = .badInstruction ∧ t.fault.info.toNat = w.toNat)

/-- R48, R250, 90_conflicts.md C5: a Cycle while faulted or AwaitingKey changes nothing, DIRTY included (only the model's own
fields move). -/
def Obligations.CycleIgnoredWhileFaultedOrWaiting : Prop :=
  ∀ s : State, (s.fault.valid = true ∨ s.wait.valid = true) →
    (s.inbox = [] → step s = .next { s with rndIn := none, draws := s.draws + 1, out := none }) ∧
    (∀ r es, s.inbox = .cycle r :: es → step s = .next { s with rndIn := some r, inbox := es, out := none })

/-- R41, R250, R251: a faulted machine keeps its latch and its pc through every event but Reset, and Reset clears the latch. -/
def Obligations.FaultLatchClearedOnlyByReset : Prop :=
  ∀ s t : State, s.fault.valid = true → step s = .next t →
    ((∀ es, s.inbox ≠ .reset :: es) → t.fault = s.fault ∧ t.pc = s.pc) ∧
    (∀ es, s.inbox = .reset :: es → t.fault.valid = false)

/-- R276: AwaitingKey is left only by a press or by Reset, and entered only by a cycle that executes FX0A. -/
def Obligations.WaitEnteredByFx0aLeftByPress : Prop :=
  ∀ s t : State, step s = .next t →
    (s.wait.valid = true → t.wait.valid = false →
      (∃ k es, s.inbox = .keyEvent k true :: es) ∨ (∃ es, s.inbox = .reset :: es)) ∧
    (s.wait.valid = false → t.wait.valid = true →
      (s.inbox = [] ∨ ∃ r es, s.inbox = .cycle r :: es) ∧ Running s ∧ ∃ w x, s.fetch = .ok w ∧ decode w = .ok (.ldVxK x) ∧ t.wait.reg = x)

/-- Every event of every state completes: no step stops (R246: a fault of the spec is a state with the latch set). -/
def Obligations.EveryStepAnswersNext : Prop :=
  ∀ s : State, ∃ t, step s = .next t

/-! ### Events (10_state.md R50 to R54) -/

/-- R50, R46, R47: the Reset event gives every piece of the machine's state its reset value and keeps the parameters (what the
environment still has to deliver is its own: log 10); and those values, in the standard configuration. The zeros are decision
D8 (log 9), the font bytes decision D10 and the display size decision D9 (log 7). -/
def Obligations.ResetStateIsAsSpecified : Prop :=
  (∀ (s : State) (es : List Event), s.inbox = .reset :: es →
    step s = .next { State.resetWith s.cfg with inbox := es, draws := s.draws }) ∧
  State.reset = State.resetWith Config.std ∧ State.reset.pc = 512 ∧ Running State.reset ∧
  (∀ a (h : a < fontTable.length), State.reset.peek a = fontTable[a]) ∧
  (∀ a, 80 ≤ a → State.reset.peek a = 0) ∧
  (∀ r, State.reset.readV r = 0) ∧ (∀ k, State.reset.readK k = false) ∧ State.reset.I = 0 ∧ State.reset.sp = 0 ∧
  (∀ i, stackRead State.reset.stack i = 0) ∧ State.reset.DT = 0 ∧ State.reset.ST = 0 ∧
  (∀ x y, State.reset.fbGet x y = false) ∧ State.reset.dirty = false

/-- R291: after Reset and any RomLoad, the first Cycle fetches `mem[512..513]`. -/
def Obligations.FirstFetchIsAt512 : Prop :=
  ∀ bytes : List Byte,
    (State.reset.romLoad bytes).pc = 512 ∧
    (State.reset.romLoad bytes).fetch =
      .ok (Word.ofBytes ((State.reset.romLoad bytes).peek 512) ((State.reset.romLoad bytes).peek 513))

/-- R52: each tick decrements its own timer while it is above 0, notifies exactly when the value becomes 0, and changes nothing
else. -/
def Obligations.TicksCountDownOneTimer : Prop :=
  ∀ (s : State) (es : List Event),
    (s.inbox = .delayTick :: es →
      ∃ t, step s = .next t ∧ t = { s with DT := t.DT, inbox := es, out := t.out } ∧
        t.DT.toNat = s.DT.toNat - 1 ∧ t.out = if s.DT.toNat = 1 then some .delayZero else none) ∧
    (s.inbox = .soundTick :: es →
      ∃ t, step s = .next t ∧ t = { s with ST := t.ST, inbox := es, out := t.out } ∧
        t.ST.toNat = s.ST.toNat - 1 ∧ t.out = if s.ST.toNat = 1 then some .soundZero else none)

/-- R225, R271: a timer loaded with v > 0 notifies at the v-th following tick and at no other, and then stays at 0. -/
def Obligations.CountdownNotifiesOnceAtZero : Prop :=
  ∀ (s : State) (n : Nat) (es : List Event),
    (s.inbox = List.replicate (n + 1) .delayTick ++ es →
      ∃ t, Sys2Proof.core.run (n + 1) s = .next t ∧ t.DT.toNat = s.DT.toNat - (n + 1) ∧
        (t.out = some .delayZero ↔ n + 1 = s.DT.toNat)) ∧
    (s.inbox = List.replicate (n + 1) .soundTick ++ es →
      ∃ t, Sys2Proof.core.run (n + 1) s = .next t ∧ t.ST.toNat = s.ST.toNat - (n + 1) ∧
        (t.out = some .soundZero ↔ n + 1 = s.ST.toNat))

/-- R53: a KeyEvent writes its cell; a press while AwaitingKey also delivers the key number and returns to Running; nothing
else changes. -/
def Obligations.KeyEventWritesCellAndWakes : Prop :=
  ∀ (s : State) (k : Key) (p : Bool) (es : List Event), s.inbox = .keyEvent k p :: es →
    ∃ t, step s = .next t ∧
      t = { s with K := t.K, V := t.V, wait := t.wait, inbox := es, out := none } ∧
      (∀ q, t.readK q = if q = k then p else s.readK q) ∧
      (∀ r, (t.readV r).toNat =
        if s.wait.valid = true ∧ p = true ∧ r = s.wait.reg then k.val else (s.readV r).toNat) ∧
      t.wait.valid = (s.wait.valid && !p) ∧ t.wait.reg = s.wait.reg

/-- R54, R302, 90_conflicts.md C1: a ROM that fits is placed whole at `PC_INIT` and nothing else changes; one that does not is
refused on the port and changes nothing. -/
def Obligations.RomLoadIsAllOrNothing : Prop :=
  ∀ (s : State) (bytes : List Byte) (es : List Event), s.wf = true → s.inbox = .romLoad bytes :: es →
    (s.cfg.pcInit + bytes.length ≤ s.cfg.memSize →
      ∃ t, step s = .next t ∧ t = { s with mem := t.mem, inbox := es, out := none } ∧
        (∀ j (h : j < bytes.length), t.peek (s.cfg.pcInit + j) = bytes[j]) ∧
        KeepsMemOutside s.cfg.pcInit bytes.length s t) ∧
    (s.cfg.memSize < s.cfg.pcInit + bytes.length →
      step s = .next { s with inbox := es, out := some .romTooLarge })

/-- R306 (a) to (c) (decisions D1, D22; log 25): under the host premises no ROM is ever refused; the first Cycle, listed or
with no event left, finds the machine Running at `PC_INIT` with the ROM there and reset contents in every other byte; and from
then on memory changes only when a Cycle executes an instruction that stores. -/
def Obligations.HostPremisesGiveOneLoadThenTheProgram : Prop :=
  ∀ (s : State) (pre post : List Event), s.cfg.wf = true → s.inbox = .reset :: pre ++ post →
    HostPremises s.cfg s.inbox → (∀ e ∈ pre, e.isCycle = false) → (∀ e, post.head? = some e → e.isCycle = true) →
    (∀ k u, Sys2Proof.core.run (k + 1) s = .next u → u.out ≠ some .romTooLarge) ∧
    (∃ t, Sys2Proof.core.run (pre.length + 1) s = .next t ∧ t.inbox = post ∧ (∃ u, TakesCycle t u) ∧ Running t ∧
      t.pc.toNat = s.cfg.pcInit ∧
      (∀ bytes ∈ romLoads pre, ∀ j (h : j < bytes.length), t.peek (s.cfg.pcInit + j) = bytes[j]) ∧
      ∀ a, (∀ bytes ∈ romLoads pre, a < s.cfg.pcInit ∨ s.cfg.pcInit + bytes.length ≤ a) →
        t.peek a = s.cfg.initByte a) ∧
    ∀ k u v, pre.length + 1 ≤ k → Sys2Proof.core.run k s = .next u → step u = .next v →
      v.mem = u.mem ∨ Running u ∧ (∃ u', TakesCycle u u') ∧
        ∃ w i, u.fetch = .ok w ∧ decode w = .ok i ∧ storeRange i u ≠ none

/-! ### Control transfer (40_flow.md) -/

/-- R121. -/
def Obligations.RetPopsAndResumesAfterCall : Prop :=
  decode 0x00EE#16 = .ok .ret ∧
  ∀ s : State,
    (s.sp ≠ 0 →
      ∃ t, exec .ret s = .next t ∧ t = { s with sp := s.sp - 1, pc := t.pc } ∧
        t.pc.toNat = ((stackRead s.stack (s.sp - 1)).toNat + 2) % 65536) ∧
    (s.sp = 0 → FaultsWith .ret s .stackUnderflow 0)

/-- R122, R123. -/
def Obligations.SysAndJpWriteOnlyPc : Prop :=
  ∀ (nnn : Addr12) (s : State),
    (nnn ≠ 0x0E0#12 → nnn ≠ 0x0EE#12 → decode (wordNNN 0x0#4 nnn) = .ok (.sys nnn)) ∧
    (∃ t, exec (.sys nnn) s = .next t ∧ t = { s with pc := t.pc } ∧ t.pc = s.pc + 2) ∧
    decode (wordNNN 0x1#4 nnn) = .ok (.jp nnn) ∧
    (∃ t, exec (.jp nnn) s = .next t ∧ t = { s with pc := t.pc } ∧ t.pc.toNat = nnn.toNat)

/-- R124. -/
def Obligations.CallPushesItsOwnAddress : Prop :=
  ∀ (nnn : Addr12) (s : State),
    decode (wordNNN 0x2#4 nnn) = .ok (.call nnn) ∧
    (s.sp ≠ s.cfg.stackCap →
      ∃ t, exec (.call nnn) s = .next t ∧ t = { s with stack := t.stack, sp := s.sp + 1, pc := t.pc } ∧
        t.pc.toNat = nnn.toNat ∧
        ∀ j, stackRead t.stack j = if j = s.sp then s.pc else stackRead s.stack j) ∧
    (s.sp = s.cfg.stackCap → FaultsWith (.call nnn) s .stackOverflow s.pc.toNat)

/-- R125. That the sum is not reduced to 12 bits is decision D7. -/
def Obligations.JpV0AddsV0 : Prop :=
  ∀ (nnn : Addr12) (s : State),
    decode (wordNNN 0xB#4 nnn) = .ok (.jpV0 nnn) ∧
    ∃ t, exec (.jpV0 nnn) s = .next t ∧ t = { s with pc := t.pc } ∧
      t.pc.toNat = nnn.toNat + (s.readV 0).toNat

/-- R30, 90_conflicts.md C6: a call followed by a return resumes at the instruction after the call with the stack pointer
and every stacked address below it as before. -/
def Obligations.CallThenRetResumesAfterCall : Prop :=
  ∀ (nnn : Addr12) (s : State), s.sp ≠ s.cfg.stackCap →
    ∃ t u, exec (.call nnn) s = .next t ∧ exec .ret t = .next u ∧
      u = { s with stack := u.stack, pc := s.pc + 2 } ∧
      ∀ j, j < s.sp → stackRead u.stack j = stackRead s.stack j

/-! ### Skips (41_skip.md) -/

/-- R141 to R144. -/
def Obligations.RegisterSkipsWriteOnlyPc : Prop :=
  ∀ (x y : Reg) (nn : Byte) (s : State),
    decode (wordXNN 0x3#4 x nn) = .ok (.seVxNn x nn) ∧ decode (wordXNN 0x4#4 x nn) = .ok (.sneVxNn x nn) ∧
    decode (wordXYN 0x5#4 x y 0x0#4) = .ok (.seVxVy x y) ∧ decode (wordXYN 0x9#4 x y 0x0#4) = .ok (.sneVxVy x y) ∧
    exec (.seVxNn x nn) s = .next { s with pc := s.pc + if s.readV x = nn then 4 else 2 } ∧
    exec (.sneVxNn x nn) s = .next { s with pc := s.pc + if s.readV x = nn then 2 else 4 } ∧
    exec (.seVxVy x y) s = .next { s with pc := s.pc + if s.readV x = s.readV y then 4 else 2 } ∧
    exec (.sneVxVy x y) s = .next { s with pc := s.pc + if s.readV x = s.readV y then 2 else 4 }

/-! ### Load, arithmetic, logic, shift, random (42_load_alu.md) -/

/-- R151, R152, R153: values mod 256. That VF is not written unless it is the destination is decision D14 (R150, log 17). -/
def Obligations.LoadsAndAddImmediate : Prop :=
  ∀ (x y : Reg) (nn : Byte) (s : State),
    decode (wordXNN 0x6#4 x nn) = .ok (.ldVxNn x nn) ∧ decode (wordXNN 0x7#4 x nn) = .ok (.addVxNn x nn) ∧
    decode (wordXYN 0x8#4 x y 0x0#4) = .ok (.ldVxVy x y) ∧
    (∃ t, exec (.ldVxNn x nn) s = .next t ∧ OnlyRegsPc s t ∧ t.pc = s.pc + 2 ∧ KeepsRegsBut [x] s t ∧
      t.readV x = nn) ∧
    (∃ t, exec (.addVxNn x nn) s = .next t ∧ OnlyRegsPc s t ∧ t.pc = s.pc + 2 ∧ KeepsRegsBut [x] s t ∧
      (t.readV x).toNat = ((s.readV x).toNat + nn.toNat) % 256) ∧
    (∃ t, exec (.ldVxVy x y) s = .next t ∧ OnlyRegsPc s t ∧ t.pc = s.pc + 2 ∧ KeepsRegsBut [x] s t ∧
      t.readV x = s.readV y)

/-- R154, R155, R156, bit by bit. That VF is not written is decision D14 (log 17); that nibbles 1, 2, 3 are OR, AND, XOR is
decision D11 (R95, presumed: log 16). -/
def Obligations.LogicIsBitwise : Prop :=
  ∀ (x y : Reg) (s : State),
    decode (wordXYN 0x8#4 x y 0x1#4) = .ok (.or x y) ∧ decode (wordXYN 0x8#4 x y 0x2#4) = .ok (.and x y) ∧
    decode (wordXYN 0x8#4 x y 0x3#4) = .ok (.xor x y) ∧
    (∃ t, exec (.or x y) s = .next t ∧ OnlyRegsPc s t ∧ t.pc = s.pc + 2 ∧ KeepsRegsBut [x] s t ∧
      ∀ b, (t.readV x).getLsbD b = ((s.readV x).getLsbD b || (s.readV y).getLsbD b)) ∧
    (∃ t, exec (.and x y) s = .next t ∧ OnlyRegsPc s t ∧ t.pc = s.pc + 2 ∧ KeepsRegsBut [x] s t ∧
      ∀ b, (t.readV x).getLsbD b = ((s.readV x).getLsbD b && (s.readV y).getLsbD b)) ∧
    (∃ t, exec (.xor x y) s = .next t ∧ OnlyRegsPc s t ∧ t.pc = s.pc + 2 ∧ KeepsRegsBut [x] s t ∧
      ∀ b, (t.readV x).getLsbD b = ((s.readV x).getLsbD b ^^ (s.readV y).getLsbD b))

/-- R157: the sum mod 256 and its carry. The order of result and flag is decision D13 (log 12); that nibble 4 is ADD is decision
D11 (R95, presumed: log 16). -/
def Obligations.AddRegisterSetsCarry : Prop :=
  ∀ (x y : Reg) (s : State),
    decode (wordXYN 0x8#4 x y 0x4#4) = .ok (.addVxVy x y) ∧
    ∃ t, exec (.addVxVy x y) s = .next t ∧
      ResultAndFlag s t x (((s.readV x).toNat + (s.readV y).toNat) % 256)
        (255 < (s.readV x).toNat + (s.readV y).toNat)

/-- R158, R160: the difference mod 256 and NOT borrow. Equal operands give flag 1 by decision D15 (log 17); the
order of result and flag is decision D13 (log 12); that nibbles 5 and 7 are SUB and SUBN is decision D11 (R95, presumed:
log 16). -/
def Obligations.SubtractSetsNotBorrow : Prop :=
  ∀ (x y : Reg) (s : State),
    decode (wordXYN 0x8#4 x y 0x5#4) = .ok (.sub x y) ∧ decode (wordXYN 0x8#4 x y 0x7#4) = .ok (.subn x y) ∧
    (∃ t, exec (.sub x y) s = .next t ∧
      ResultAndFlag s t x (((s.readV x).toNat + 256 - (s.readV y).toNat) % 256)
        ((s.readV y).toNat ≤ (s.readV x).toNat)) ∧
    (∃ t, exec (.subn x y) s = .next t ∧
      ResultAndFlag s t x (((s.readV y).toNat + 256 - (s.readV x).toNat) % 256)
        ((s.readV x).toNat ≤ (s.readV y).toNat))

/-- R159, R161: one bit, logical, of the register `SHIFT_SRC` names (decision D12), the bit shifted out to VF. The
order of result and flag is decision D13 (log 12); that nibble 6 is SHR is decision D11 (R95, presumed: log 16). -/
def Obligations.ShiftsMoveOneBit : Prop :=
  ∀ (x y : Reg) (s : State) (v : Nat),
    v = (s.readV (if s.cfg.shiftSrc = .vx then x else y)).toNat →
    decode (wordXYN 0x8#4 x y 0x6#4) = .ok (.shr x y) ∧ decode (wordXYN 0x8#4 x y 0xE#4) = .ok (.shl x y) ∧
    (∃ t, exec (.shr x y) s = .next t ∧ ResultAndFlag s t x (v / 2) (v % 2 = 1)) ∧
    (∃ t, exec (.shl x y) s = .next t ∧ ResultAndFlag s t x (2 * v % 256) (128 ≤ v))

/-- R162, R51: VX becomes the Cycle's `rnd` masked by NN; whatever the draw, no bit outside NN is set (decision D18: the draw
is any value). -/
def Obligations.RndMasksTheDraw : Prop :=
  ∀ (x : Reg) (nn : Byte) (s : State),
    decode (wordXNN 0xC#4 x nn) = .ok (.rnd x nn) ∧
    ∃ t, exec (.rnd x nn) s = .next t ∧ OnlyRegsPc s t ∧ t.pc = s.pc + 2 ∧ KeepsRegsBut [x] s t ∧
      (∀ r, s.rndIn = some r → t.readV x = r &&& nn) ∧
      (∀ b, nn.getLsbD b = false → (t.readV x).getLsbD b = false)

/-! ### Index register and memory transfer (43_index_memory.md) -/

/-- R181, R182. -/
def Obligations.IndexLoadAndAdd : Prop :=
  ∀ (nnn : Addr12) (x : Reg) (s : State),
    decode (wordNNN 0xA#4 nnn) = .ok (.ldINnn nnn) ∧ decode (wordXNN 0xF#4 x 0x1E#8) = .ok (.addIVx x) ∧
    (∃ t, exec (.ldINnn nnn) s = .next t ∧ t = { s with I := t.I, pc := s.pc + 2 } ∧ t.I.toNat = nnn.toNat) ∧
    (∃ t, exec (.addIVx x) s = .next t ∧ t = { s with V := t.V, I := t.I, pc := s.pc + 2 } ∧
      KeepsRegsBut [Reg.vf] s t ∧
      t.I.toNat = (s.I.toNat + (s.readV x).toNat) % 65536 ∧
      (t.readV Reg.vf).toNat = if s.cfg.memSize ≤ s.I.toNat + (s.readV x).toNat then 1 else 0)

/-- R183: the whole byte is multiplied (decision D21); in the standard configuration I becomes 5 times VX. -/
def Obligations.GlyphAddressIsFiveTimesVx : Prop :=
  ∀ (x : Reg) (s : State),
    decode (wordXNN 0xF#4 x 0x29#8) = .ok (.ldFVx x) ∧
    ∃ t, exec (.ldFVx x) s = .next t ∧ t = { s with I := t.I, pc := s.pc + 2 } ∧
      t.I.toNat = (s.cfg.fontBase + (s.readV x).toNat * s.cfg.glyphBytes) % 65536 ∧
      (s.cfg = Config.std → t.I.toNat = (s.readV x).toNat * 5)

/-- R184: hundreds, tens and ones at I, I + 1, I + 2, or OutOfBounds before any byte is written. -/
def Obligations.BcdStoresThreeDigits : Prop :=
  ∀ (x : Reg) (s : State), s.mem.wf s.cfg = true →
    decode (wordXNN 0xF#4 x 0x33#8) = .ok (.ldBVx x) ∧
    (s.I.toNat + 2 < s.cfg.memSize →
      ∃ t, exec (.ldBVx x) s = .next t ∧ t = { s with mem := t.mem, pc := s.pc + 2 } ∧
        KeepsMemOutside (s.ea 0) 3 s t ∧
        (t.peek s.I.toNat).toNat = (s.readV x).toNat / 100 ∧
        (t.peek (s.I.toNat + 1)).toNat = (s.readV x).toNat / 10 % 10 ∧
        (t.peek (s.I.toNat + 2)).toNat = (s.readV x).toNat % 10) ∧
    (s.cfg.memSize ≤ s.I.toNat + 2 → FaultsWith (.ldBVx x) s .outOfBounds (max s.I.toNat s.cfg.memSize))

/-- R185: V0..VX to mem[I..I+X], or OutOfBounds before any byte is written. -/
def Obligations.BulkStoreWritesV0ToVx : Prop :=
  ∀ (x : Reg) (s : State), s.mem.wf s.cfg = true →
    decode (wordXNN 0xF#4 x 0x55#8) = .ok (.ldMiVx x) ∧
    (s.I.toNat + x.val < s.cfg.memSize →
      ∃ t, exec (.ldMiVx x) s = .next t ∧ t = { s with mem := t.mem, pc := s.pc + 2 } ∧
        KeepsMemOutside (s.ea 0) (x.val + 1) s t ∧
        ∀ j : Reg, j ≤ x → t.peek (s.I.toNat + j.val) = s.readV j) ∧
    (s.cfg.memSize ≤ s.I.toNat + x.val → FaultsWith (.ldMiVx x) s .outOfBounds (max s.I.toNat s.cfg.memSize))

/-- R186: mem[I..I+X] to V0..VX, or OutOfBounds before any register is written. -/
def Obligations.BulkLoadReadsV0ToVx : Prop :=
  ∀ (x : Reg) (s : State),
    decode (wordXNN 0xF#4 x 0x65#8) = .ok (.ldVxMi x) ∧
    (s.I.toNat + x.val < s.cfg.memSize →
      ∃ t, exec (.ldVxMi x) s = .next t ∧ OnlyRegsPc s t ∧ t.pc = s.pc + 2 ∧
        ∀ j : Reg, t.readV j = if j ≤ x then s.peek (s.I.toNat + j.val) else s.readV j) ∧
    (s.cfg.memSize ≤ s.I.toNat + x.val → FaultsWith (.ldVxMi x) s .outOfBounds (max s.I.toNat s.cfg.memSize))

/-- R185, R186: registers stored by FX55 come back by FX65 with the same X and I, whatever the registers held in between. -/
def Obligations.BulkStoreThenLoadRestores : Prop :=
  ∀ (x : Reg) (s : State) (v : Vector Byte 16), s.mem.wf s.cfg = true → s.I.toNat + x.val < s.cfg.memSize →
    ∃ t u, exec (.ldMiVx x) s = .next t ∧ exec (.ldVxMi x) { t with V := v } = .next u ∧
      ∀ j : Reg, j ≤ x → u.readV j = s.readV j

/-- R77: a word stored by FX55 over the next instruction is the word the next fetch reads. -/
def Obligations.StoredWordIsFetchedNext : Prop :=
  ∀ (x : Reg) (s : State), s.mem.wf s.cfg = true → 1 ≤ x.val → s.I = s.pc + 2 →
    s.I.toNat + x.val < s.cfg.memSize →
    ∃ t, exec (.ldMiVx x) s = .next t ∧ t.fetch = .ok (Word.ofBytes (s.readV 0) (s.readV 1))

/-! ### Display (44_display.md) -/

/-- R201. -/
def Obligations.ClsClearsEveryPixel : Prop :=
  decode 0x00E0#16 = .ok .cls ∧
  ∀ s : State, ∃ t, exec .cls s = .next t ∧ t = { s with fb := t.fb, dirty := true, pc := s.pc + 2 } ∧
    ∀ x y, t.fbGet x y = false

/-- R202, R204 (per-pixel wrap is decision D20): exactly the pixels under set sprite bits are inverted, each wrapped on its own
axis; VF tells whether one went from 1 to 0; DIRTY is set when there is one. The premises on width and height say that no
pixel lies under two sprite bits, which R202 derives from 64 by 32. -/
def Obligations.DrawInvertsPixelsUnderSprite : Prop :=
  ∀ (x y : Reg) (n : Nibble) (s : State), s.fb.wf s.cfg = true → 8 ≤ s.cfg.displayW → 15 ≤ s.cfg.displayH →
    (n.toNat = 0 ∨ s.I.toNat + n.toNat ≤ s.cfg.memSize) →
    decode (wordXYN 0xD#4 x y n) = .ok (.drw x y n) ∧
    ∃ t, exec (.drw x y n) s = .next t ∧
      t = { s with V := t.V, fb := t.fb, dirty := t.dirty, pc := s.pc + 2 } ∧
      KeepsRegsBut [Reg.vf] s t ∧
      (∀ col row, col < s.cfg.displayW → row < s.cfg.displayH →
        (t.fbGet col row ≠ s.fbGet col row ↔
          ∃ r c, r < n.toNat ∧ c < 8 ∧ spriteBit s r c = true ∧
            ((s.readV x).toNat + c) % s.cfg.displayW = col ∧ ((s.readV y).toNat + r) % s.cfg.displayH = row)) ∧
      (t.readV Reg.vf = 0 ∨ t.readV Reg.vf = 1) ∧
      (t.readV Reg.vf = 1 ↔ ∃ col row, s.fbGet col row = true ∧ t.fbGet col row = false) ∧
      (t.dirty = true ↔ s.dirty = true ∨ ∃ r c, r < n.toNat ∧ c < 8 ∧ spriteBit s r c = true)

/-- R202, R70: a nonempty sprite with a byte out of range faults before any pixel or VF is written. -/
def Obligations.DrawOutOfRangeFaults : Prop :=
  ∀ (x y : Reg) (n : Nibble) (s : State), 0 < n.toNat → s.cfg.memSize < s.I.toNat + n.toNat →
    FaultsWith (.drw x y n) s .outOfBounds (max s.I.toNat s.cfg.memSize)

/-- R203: drawing the same sprite twice restores the framebuffer, and the second draw sets VF exactly when the first turned a
pixel on. -/
def Obligations.DrawTwiceRestoresScreen : Prop :=
  ∀ (x y : Reg) (n : Nibble) (s : State), s.fb.wf s.cfg = true → 8 ≤ s.cfg.displayW → 15 ≤ s.cfg.displayH →
    (n.toNat = 0 ∨ s.I.toNat + n.toNat ≤ s.cfg.memSize) → x ≠ Reg.vf → y ≠ Reg.vf →
    ∃ t u, exec (.drw x y n) s = .next t ∧ exec (.drw x y n) t = .next u ∧ u.fb = s.fb ∧
      (u.readV Reg.vf = 1 ↔ ∃ col row, s.fbGet col row = false ∧ t.fbGet col row = true)

/-- R39: after an instruction that does not fault, run with DIRTY clear, DIRTY is 1 exactly for 00E0 and for a DXYN with a set
sprite bit. -/
def Obligations.DirtyTellsWhetherScreenWasWritten : Prop :=
  ∀ (i : Instr) (s t : State), s.dirty = false → faultOf i s = none → exec i s = .next t →
    (t.dirty = true ↔
      i = .cls ∨ ∃ x y n r c, i = .drw x y n ∧ r < n.toNat ∧ c < 8 ∧ spriteBit s r c = true)

/-! ### Keypad and timers (45_keypad_timers.md) -/

/-- R221, R222. That a key number above 15 faults is decision D17. -/
def Obligations.KeySkipsTestOneKey : Prop :=
  ∀ (x : Reg) (s : State),
    decode (wordXNN 0xE#4 x 0x9E#8) = .ok (.skp x) ∧ decode (wordXNN 0xE#4 x 0xA1#8) = .ok (.sknp x) ∧
    (∀ k : Key, (s.readV x).toNat = k.val →
      exec (.skp x) s = .next { s with pc := s.pc + if s.readK k = true then 4 else 2 } ∧
      exec (.sknp x) s = .next { s with pc := s.pc + if s.readK k = true then 2 else 4 }) ∧
    (16 ≤ (s.readV x).toNat →
      FaultsWith (.skp x) s .keyOutOfBounds (s.readV x).toNat ∧
      FaultsWith (.sknp x) s .keyOutOfBounds (s.readV x).toNat)

/-- R223, R225, R226: the register side of the two timers. -/
def Obligations.TimerTransfers : Prop :=
  ∀ (x : Reg) (s : State),
    decode (wordXNN 0xF#4 x 0x07#8) = .ok (.ldVxDt x) ∧ decode (wordXNN 0xF#4 x 0x15#8) = .ok (.ldDtVx x) ∧
    decode (wordXNN 0xF#4 x 0x18#8) = .ok (.ldStVx x) ∧
    (∃ t, exec (.ldVxDt x) s = .next t ∧ OnlyRegsPc s t ∧ t.pc = s.pc + 2 ∧ KeepsRegsBut [x] s t ∧
      t.readV x = s.DT) ∧
    exec (.ldDtVx x) s = .next { s with DT := s.readV x, pc := s.pc + 2 } ∧
    exec (.ldStVx x) s = .next { s with ST := s.readV x, pc := s.pc + 2 }

/-- R224: FX0A enters AwaitingKey and advances pc; then Cycles and releases do nothing to the registers, pc or the wait, until
a press delivers its key number to VX and ends the wait. -/
def Obligations.KeyWaitEndsWithFirstPress : Prop :=
  ∀ (x : Reg) (s : State),
    decode (wordXNN 0xF#4 x 0x0A#8) = .ok (.ldVxK x) ∧
    ∃ t, exec (.ldVxK x) s = .next t ∧ t = { s with wait := ⟨true, x⟩, pc := s.pc + 2 } ∧
      ∀ (evs : List Event) (k : Key),
        (∀ e ∈ evs, (∃ r, e = .cycle r) ∨ (∃ q, e = .keyEvent q false) ∨ e = .delayTick ∨ e = .soundTick) →
        (∃ u, Sys2Proof.core.run evs.length { t with inbox := evs } = .next u ∧
          u.V = t.V ∧ u.pc = t.pc ∧ u.wait = t.wait) ∧
        ∃ u, Sys2Proof.core.run (evs.length + 1) { t with inbox := evs ++ [.keyEvent k true] } = .next u ∧
          (u.readV x).toNat = k.val ∧ KeepsRegsBut [x] t u ∧ u.pc = t.pc ∧ u.wait.valid = false

/-! ### Frames: what an instruction leaves unchanged (10_state.md R57) -/

/-- R60, R68: every byte of memory keeps its value but the ones FX33 and FX55 store to, at the address their meanings compute. -/
def Obligations.MemoryWrittenOnlyByStores : Prop :=
  ∀ (i : Instr) (s t : State), exec i s = .next t →
    ∀ a, (∀ lo n, storeRange i s = some (lo, n) → a < lo ∨ lo + n ≤ a) → t.peek a = s.peek a

/-- R22, R57: every data register keeps its value but the ones the instruction's rule lists; in particular VF changes as a side
effect only for 8XY4, 8XY5, 8XY6, 8XY7, 8XYE, DXYN and FX1E. -/
def Obligations.RegistersWrittenOnlyAsListed : Prop :=
  ∀ (i : Instr) (s t : State), exec i s = .next t →
    ∀ r, i.writesReg r = false → t.readV r = s.readV r

/-- R30, R31, R32, R33, R40: I, the timers, the stack and WAIT are written by their own instructions only. -/
def Obligations.SpecialRegistersWrittenOnlyAsListed : Prop :=
  ∀ (i : Instr) (s t : State), exec i s = .next t →
    (t.I = s.I ∨ (∃ nnn, i = .ldINnn nnn) ∨ (∃ x, i = .addIVx x) ∨ ∃ x, i = .ldFVx x) ∧
    (t.DT = s.DT ∨ ∃ x, i = .ldDtVx x) ∧
    (t.ST = s.ST ∨ ∃ x, i = .ldStVx x) ∧
    (t.sp = s.sp ∨ i = .ret ∨ ∃ nnn, i = .call nnn) ∧
    (∀ j, stackRead t.stack j = stackRead s.stack j ∨ (j = s.sp ∧ ∃ nnn, i = .call nnn)) ∧
    (t.wait = s.wait ∨ ∃ x, i = .ldVxK x)

/-- R34, R200: the framebuffer and DIRTY are written by 00E0 and DXYN only, and no instruction writes the key state, the
parameters or the environment's side of the ports. -/
def Obligations.ScreenAndPortsWrittenOnlyAsListed : Prop :=
  ∀ (i : Instr) (s t : State), exec i s = .next t →
    ((t.fb = s.fb ∧ t.dirty = s.dirty) ∨ i = .cls ∨ ∃ x y n, i = .drw x y n) ∧
    t.K = s.K ∧ t.cfg = s.cfg ∧ t.inbox = s.inbox ∧ t.rndIn = s.rndIn ∧ t.draws = s.draws ∧ t.out = s.out

/-- R34, R57, R6: over whole events, the key state changes only by a KeyEvent or Reset, memory only by a Cycle, RomLoad or Reset,
and the parameters never. -/
def Obligations.EventsWriteOnlyTheirState : Prop :=
  ∀ s t : State, step s = .next t →
    t.cfg = s.cfg ∧
    (t.K = s.K ∨ (∃ k p es, s.inbox = .keyEvent k p :: es) ∨ ∃ es, s.inbox = .reset :: es) ∧
    (t.mem = s.mem ∨ s.inbox = [] ∨ (∃ r es, s.inbox = .cycle r :: es) ∨
      (∃ b es, s.inbox = .romLoad b :: es) ∨ ∃ es, s.inbox = .reset :: es)

/-! ### Whole-machine rules -/

/-- R25: pc at the end of every instruction that does not fault. -/
def Obligations.PcNetEffectTable : Prop :=
  ∀ (i : Instr) (s : State), faultOf i s = none → ∃ t, exec i s = .next t ∧ t.pc.toNat = netPc i s

/-- R123's corner case, R316 (decision D27: a parked machine is the model's own notion): a Cycle, listed or not, at a jump to
itself changes nothing but DIRTY and the model's own fields. -/
def Obligations.ParkedMachineClearsOnlyDirty : Prop :=
  ∀ s u : State, Running s → Parked s → TakesCycle s u → step s = .next { u with dirty := false }

/-- R243 to R248, R246: an instruction faults exactly in the listed states, with the listed cause and value and no other
change; otherwise it leaves the latch alone. -/
def Obligations.FaultsAreExactlyTheListed : Prop :=
  ∀ (i : Instr) (s : State),
    (∀ c info, faultOf i s = some (c, info) → FaultsWith i s c info) ∧
    (faultOf i s = none → ∃ t, exec i s = .next t ∧ t.fault = s.fault)

/-- R159, R161, R23 (decisions D12, D13): the setting of `SHIFT_SRC` matters only to a shift with X other than Y, whatever
`VF_ORDER` is, and the setting of `VF_ORDER` only to the five flag-setting register operations with X = F, whatever
`SHIFT_SRC` is. -/
def Obligations.OpenParametersMatterOnlyWhereStated : Prop :=
  ∀ (i : Instr) (s t : State), exec i s = .next t →
    (∀ src : ShiftSrc, (∀ x y, (i = .shr x y ∨ i = .shl x y) → x = y) →
      exec i { s with cfg := { s.cfg with shiftSrc := src } } =
        .next { t with cfg := { t.cfg with shiftSrc := src } }) ∧
    (∀ order : VfOrder,
      (∀ x y, (i = .addVxVy x y ∨ i = .sub x y ∨ i = .subn x y ∨ i = .shr x y ∨ i = .shl x y) → x ≠ Reg.vf) →
      exec i { s with cfg := { s.cfg with vfOrder := order } } =
        .next { t with cfg := { t.cfg with vfOrder := order } })

/-- R34, R33, R43: no instruction but EX9E and EXA1 depends on the key state, and none depends on ST: every one but FX18 keeps
ST and does the same whatever it is, and FX18, which overwrites ST, gives the same state whatever it was. -/
def Obligations.KeysAndSoundTimerAreInvisible : Prop :=
  ∀ (i : Instr) (s t : State) (keys : Vector Bool 16) (st : Byte), exec i s = .next t →
    ((∀ x, i ≠ .skp x) → (∀ x, i ≠ .sknp x) → exec i { s with K := keys } = .next { t with K := keys }) ∧
    ((∀ x, i ≠ .ldStVx x) → exec i { s with ST := st } = .next { t with ST := st }) ∧
    (∀ x, i = .ldStVx x → exec i { s with ST := st } = .next t)

/-! ### Memory (20_memory.md) -/

/-- R61, R62, R63: the three memory primitives, in and out of range. -/
def Obligations.MemoryPrimitives : Prop :=
  ∀ (s : State) (a : Nat) (v : Byte), s.mem.wf s.cfg = true →
    (a < s.cfg.memSize → s.load8 a = .ok (s.peek a)) ∧
    (s.cfg.memSize ≤ a → s.load8 a = .error a) ∧
    (a + 1 < s.cfg.memSize →
      ∃ w, s.load16 a = .ok w ∧ w.toNat = (s.peek a).toNat * 256 + (s.peek (a + 1)).toNat) ∧
    (s.cfg.memSize ≤ a + 1 → s.load16 a = .error (if s.cfg.memSize ≤ a then a else a + 1)) ∧
    (a < s.cfg.memSize →
      ∃ t, s.store8 a v = .ok t ∧ t = { s with mem := t.mem } ∧ t.peek a = v ∧ KeepsMemOutside a 1 s t) ∧
    (s.cfg.memSize ≤ a → s.store8 a v = .error a)

/-- The model's canonical form: two memories in it that read the same at every address are the same data. -/
def Obligations.CanonicalMemoriesWithSameBytesAreEqual : Prop :=
  ∀ (c : Config) (m n : Memory), m.wf c = true → n.wf c = true → (∀ a, m.read c a = n.read c a) → m = n

/-! ### Invariants -/

/-- R28, R35, R42, R6: every event of a well-formed state leaves a well-formed state: legal parameters, memory and framebuffer
in canonical form and in range, STACK_CAP cells, sp in [0, STACK_CAP]. -/
def Obligations.StepKeepsWellFormed : Prop :=
  ∀ s t : State, s.wf = true → step s = .next t → t.wf = true

/-- R121, R27: in the standard configuration every stacked return address stays the address of a word that can be fetched, and
pc never exceeds 0x10FE. -/
def Obligations.StepKeepsReturnAddressesAndPcInRange : Prop :=
  ∀ s t : State, s.cfg = Config.std → s.returnsFetchable = true → s.pc.toNat ≤ 0x10FE → step s = .next t →
    t.returnsFetchable = true ∧ t.pc.toNat ≤ 0x10FE

/-- The reset state meets both invariants. -/
def Obligations.ResetMeetsTheInvariants : Prop :=
  State.reset.wf = true ∧ State.reset.cfg = Config.std ∧ State.reset.returnsFetchable = true ∧
  State.reset.pc.toNat ≤ 0x10FE
end

