-- ==== Sys2Proof/Laws/Encoding.lean ====
section
/-! SUPPORT. The number each format's word is, each field of a word as a number, and each format's fields (30_encoding.md R91,
R92). -/

namespace Sys2Proof

theorem toNat_append_eq {a b : Nat} (x : BitVec a) (y : BitVec b) :
    (x ++ y).toNat = x.toNat * 2 ^ b + y.toNat := by
  rw [BitVec.toNat_append, ← Nat.shiftLeft_add_eq_or_of_lt y.isLt, Nat.shiftLeft_eq]

theorem toNat_wordNNN (op : Nibble) (nnn : Addr12) :
    (wordNNN op nnn).toNat = op.toNat * 4096 + nnn.toNat := toNat_append_eq op nnn

theorem toNat_wordXNN (op : Nibble) (x : Reg) (nn : Byte) :
    (wordXNN op x nn).toNat = op.toNat * 4096 + x.val * 256 + nn.toNat := by
  have e : (wordXNN op x nn).toNat = (op.toNat * 2 ^ 4 + x.val) * 2 ^ 8 + nn.toNat := by
    show (op ++ (BitVec.ofFin x : Nibble) ++ nn).toNat = _
    rw [toNat_append_eq, toNat_append_eq]; rfl
  rw [e]; clear e; omega

theorem toNat_wordXYN (op : Nibble) (x y : Reg) (n : Nibble) :
    (wordXYN op x y n).toNat = op.toNat * 4096 + x.val * 256 + y.val * 16 + n.toNat := by
  have e : (wordXYN op x y n).toNat = ((op.toNat * 2 ^ 4 + x.val) * 2 ^ 4 + y.val) * 2 ^ 4 + n.toNat := by
    show (op ++ (BitVec.ofFin x : Nibble) ++ (BitVec.ofFin y : Nibble) ++ n).toNat = _
    rw [toNat_append_eq, toNat_append_eq, toNat_append_eq]; rfl
  rw [e]; clear e; omega

theorem toNat_fieldOP (w : Word) : (fieldOP w).toNat = w.toNat / 4096 := by
  have := w.isLt
  simp only [fieldOP, BitVec.extractLsb'_toNat, Nat.shiftRight_eq_div_pow]
  omega

theorem val_fieldX (w : Word) : (fieldX w).val = w.toNat / 256 % 16 := by
  have h : (fieldX w).val = (w.extractLsb' 8 4).toNat := rfl
  rw [h, BitVec.extractLsb'_toNat, Nat.shiftRight_eq_div_pow]

theorem val_fieldY (w : Word) : (fieldY w).val = w.toNat / 16 % 16 := by
  have h : (fieldY w).val = (w.extractLsb' 4 4).toNat := rfl
  rw [h, BitVec.extractLsb'_toNat, Nat.shiftRight_eq_div_pow]

theorem toNat_fieldN (w : Word) : (fieldN w).toNat = w.toNat % 16 := by
  simp [fieldN, BitVec.extractLsb'_toNat]

theorem toNat_fieldNN (w : Word) : (fieldNN w).toNat = w.toNat % 256 := by
  simp [fieldNN, BitVec.extractLsb'_toNat]

theorem toNat_fieldNNN (w : Word) : (fieldNNN w).toNat = w.toNat % 4096 := by
  simp [fieldNNN, BitVec.extractLsb'_toNat]

theorem toNat_ofBytes (hi lo : Byte) : (Word.ofBytes hi lo).toNat = hi.toNat * 256 + lo.toNat :=
  toNat_append_eq hi lo

/-! ### The fields of each format -/

@[simp] theorem fieldOP_wordNNN (op : Nibble) (nnn : Addr12) : fieldOP (wordNNN op nnn) = op := by
  apply BitVec.eq_of_toNat_eq; have := nnn.isLt; rw [toNat_fieldOP, toNat_wordNNN]; omega

@[simp] theorem fieldNNN_wordNNN (op : Nibble) (nnn : Addr12) : fieldNNN (wordNNN op nnn) = nnn := by
  apply BitVec.eq_of_toNat_eq; have := nnn.isLt; rw [toNat_fieldNNN, toNat_wordNNN]; omega

@[simp] theorem fieldOP_wordXNN (op : Nibble) (x : Reg) (nn : Byte) : fieldOP (wordXNN op x nn) = op := by
  apply BitVec.eq_of_toNat_eq; have := nn.isLt; have := x.isLt; rw [toNat_fieldOP, toNat_wordXNN]; omega

@[simp] theorem fieldX_wordXNN (op : Nibble) (x : Reg) (nn : Byte) : fieldX (wordXNN op x nn) = x := by
  apply Fin.ext; have := nn.isLt; have := x.isLt; rw [val_fieldX, toNat_wordXNN]; omega

@[simp] theorem fieldNN_wordXNN (op : Nibble) (x : Reg) (nn : Byte) : fieldNN (wordXNN op x nn) = nn := by
  apply BitVec.eq_of_toNat_eq; have := nn.isLt; have := x.isLt; rw [toNat_fieldNN, toNat_wordXNN]; omega

@[simp] theorem fieldOP_wordXYN (op : Nibble) (x y : Reg) (n : Nibble) : fieldOP (wordXYN op x y n) = op := by
  apply BitVec.eq_of_toNat_eq; have := n.isLt; have := x.isLt; have := y.isLt
  rw [toNat_fieldOP, toNat_wordXYN]; omega

@[simp] theorem fieldX_wordXYN (op : Nibble) (x y : Reg) (n : Nibble) : fieldX (wordXYN op x y n) = x := by
  apply Fin.ext; have := n.isLt; have := x.isLt; have := y.isLt
  rw [val_fieldX, toNat_wordXYN]; omega

@[simp] theorem fieldY_wordXYN (op : Nibble) (x y : Reg) (n : Nibble) : fieldY (wordXYN op x y n) = y := by
  apply Fin.ext; have := n.isLt; have := x.isLt; have := y.isLt
  rw [val_fieldY, toNat_wordXYN]; omega

@[simp] theorem fieldN_wordXYN (op : Nibble) (x y : Reg) (n : Nibble) : fieldN (wordXYN op x y n) = n := by
  apply BitVec.eq_of_toNat_eq; have := n.isLt; have := x.isLt; have := y.isLt
  rw [toNat_fieldN, toNat_wordXYN]; omega

/-- A word is its four nibbles. -/
theorem word_ext_fields {v w : Word} (h1 : fieldOP v = fieldOP w) (h2 : fieldX v = fieldX w) (h3 : fieldY v = fieldY w)
    (h4 : fieldN v = fieldN w) : v = w := by
  apply BitVec.eq_of_toNat_eq
  have a1 := congrArg BitVec.toNat h1; have a2 := congrArg Fin.val h2
  have a3 := congrArg Fin.val h3; have a4 := congrArg BitVec.toNat h4
  rw [toNat_fieldOP, toNat_fieldOP] at a1
  rw [val_fieldX, val_fieldX] at a2
  rw [val_fieldY, val_fieldY] at a3
  rw [toNat_fieldN, toNat_fieldN] at a4
  omega

/-! ### The decoder by opcode nibble (R96) -/

/-- Sixteen opcode nibbles. -/
theorem nibble_cases (n : Nibble) :
    n = 0x0#4 ∨ n = 0x1#4 ∨ n = 0x2#4 ∨ n = 0x3#4 ∨ n = 0x4#4 ∨ n = 0x5#4 ∨ n = 0x6#4 ∨ n = 0x7#4 ∨
    n = 0x8#4 ∨ n = 0x9#4 ∨ n = 0xA#4 ∨ n = 0xB#4 ∨ n = 0xC#4 ∨ n = 0xD#4 ∨ n = 0xE#4 ∨ n = 0xF#4 := by
  revert n; decide

section
variable {w : Word}

theorem decode_op0 (h : fieldOP w = 0x0#4) :
    decode w = decode0 w := by simp [decode, h]
theorem decode_op1 (h : fieldOP w = 0x1#4) :
    decode w = .ok (.jp (fieldNNN w)) := by simp [decode, h]
theorem decode_op2 (h : fieldOP w = 0x2#4) :
    decode w = .ok (.call (fieldNNN w)) := by simp [decode, h]
theorem decode_op3 (h : fieldOP w = 0x3#4) :
    decode w = .ok (.seVxNn (fieldX w) (fieldNN w)) := by simp [decode, h]
theorem decode_op4 (h : fieldOP w = 0x4#4) :
    decode w = .ok (.sneVxNn (fieldX w) (fieldNN w)) := by simp [decode, h]
theorem decode_op5 (h : fieldOP w = 0x5#4) :
    decode w = if fieldN w = 0x0#4 then .ok (.seVxVy (fieldX w) (fieldY w)) else .error (.badInstruction w) := by simp [decode, h]
theorem decode_op6 (h : fieldOP w = 0x6#4) :
    decode w = .ok (.ldVxNn (fieldX w) (fieldNN w)) := by simp [decode, h]
theorem decode_op7 (h : fieldOP w = 0x7#4) :
    decode w = .ok (.addVxNn (fieldX w) (fieldNN w)) := by simp [decode, h]
theorem decode_op8 (h : fieldOP w = 0x8#4) :
    decode w = decode8 w := by simp [decode, h]
theorem decode_op9 (h : fieldOP w = 0x9#4) :
    decode w = if fieldN w = 0x0#4 then .ok (.sneVxVy (fieldX w) (fieldY w)) else .error (.badInstruction w) := by simp [decode, h]
theorem decode_opA (h : fieldOP w = 0xA#4) :
    decode w = .ok (.ldINnn (fieldNNN w)) := by simp [decode, h]
theorem decode_opB (h : fieldOP w = 0xB#4) :
    decode w = .ok (.jpV0 (fieldNNN w)) := by simp [decode, h]
theorem decode_opC (h : fieldOP w = 0xC#4) :
    decode w = .ok (.rnd (fieldX w) (fieldNN w)) := by simp [decode, h]
theorem decode_opD (h : fieldOP w = 0xD#4) :
    decode w = .ok (.drw (fieldX w) (fieldY w) (fieldN w)) := by simp [decode, h]
theorem decode_opE (h : fieldOP w = 0xE#4) :
    decode w = decodeE w := by simp [decode, h]
theorem decode_opF (h : fieldOP w = 0xF#4) :
    decode w = decodeF w := by simp [decode, h]
end

/-- A word with its opcode nibble and address is its NNN format. -/
theorem wordNNN_fields (w : Word) : wordNNN (fieldOP w) (fieldNNN w) = w := by
  apply BitVec.eq_of_toNat_eq; rw [toNat_wordNNN, toNat_fieldOP, toNat_fieldNNN]; omega

/-- A word with its opcode nibble, X and NN is its XNN format. -/
theorem wordXNN_fields (w : Word) : wordXNN (fieldOP w) (fieldX w) (fieldNN w) = w := by
  apply BitVec.eq_of_toNat_eq; rw [toNat_wordXNN, toNat_fieldOP, val_fieldX, toNat_fieldNN]; omega

/-- A word with its four nibbles is its XYN format. -/
theorem wordXYN_fields (w : Word) : wordXYN (fieldOP w) (fieldX w) (fieldY w) (fieldN w) = w := by
  apply BitVec.eq_of_toNat_eq
  rw [toNat_wordXYN, toNat_fieldOP, val_fieldX, val_fieldY, toNat_fieldN]; omega

/-! ### The opcode map's three kinds of mask -/

theorem and_allOnes_nibble (n : Nibble) : n &&& 0xF#4 = n := BitVec.and_allOnes

theorem wordNNN_and_F000 (op : Nibble) (nnn : Addr12) : (wordNNN op nnn &&& 0xF000#16) = wordNNN op 0 := by
  show (op ++ nnn) &&& (0xF#4 ++ 0#12) = op ++ 0#12
  rw [BitVec.and_append, and_allOnes_nibble, BitVec.and_zero]

theorem wordXNN_and_F000 (op : Nibble) (x : Reg) (nn : Byte) :
    (wordXNN op x nn &&& 0xF000#16) = wordXNN op 0 0 := by
  show (op ++ (BitVec.ofFin x : Nibble) ++ nn) &&& (0xF#4 ++ 0#4 ++ 0#8) = op ++ 0#4 ++ 0#8
  rw [BitVec.and_append, BitVec.and_append, and_allOnes_nibble, BitVec.and_zero, BitVec.and_zero]

theorem wordXYN_and_F000 (op : Nibble) (x y : Reg) (n : Nibble) :
    (wordXYN op x y n &&& 0xF000#16) = wordXYN op 0 0 0 := by
  show (op ++ (BitVec.ofFin x : Nibble) ++ (BitVec.ofFin y : Nibble) ++ n) &&& (0xF#4 ++ 0#4 ++ 0#4 ++ 0#4)
    = op ++ 0#4 ++ 0#4 ++ 0#4
  rw [BitVec.and_append, BitVec.and_append, BitVec.and_append, and_allOnes_nibble, BitVec.and_zero, BitVec.and_zero,
    BitVec.and_zero]

theorem wordXYN_and_F00F (op : Nibble) (x y : Reg) (n : Nibble) :
    (wordXYN op x y n &&& 0xF00F#16) = wordXYN op 0 0 n := by
  show (op ++ (BitVec.ofFin x : Nibble) ++ (BitVec.ofFin y : Nibble) ++ n) &&& (0xF#4 ++ 0#4 ++ 0#4 ++ 0xF#4)
    = op ++ 0#4 ++ 0#4 ++ n
  rw [BitVec.and_append, BitVec.and_append, BitVec.and_append, and_allOnes_nibble, and_allOnes_nibble, BitVec.and_zero,
    BitVec.and_zero]

theorem wordXNN_and_F0FF (op : Nibble) (x : Reg) (nn : Byte) :
    (wordXNN op x nn &&& 0xF0FF#16) = wordXNN op 0 nn := by
  show (op ++ (BitVec.ofFin x : Nibble) ++ nn) &&& (0xF#4 ++ 0#4 ++ 0xFF#8) = op ++ 0#4 ++ nn
  have h : nn &&& 0xFF#8 = nn := BitVec.and_allOnes
  rw [BitVec.and_append, BitVec.and_append, and_allOnes_nibble, BitVec.and_zero, h]

end Sys2Proof
end

