-- ==== Sys2Proof/Laws/State.lean ====
section
/-! SUPPORT. One lemma per field per update of the state, true by rfl. -/

namespace Sys2Proof.Machine.State

variable (s : State)

/-! `writeV` -/

@[simp] theorem writeV_cfg (r : Reg) (v : Byte) : (s.writeV r v).cfg = s.cfg := rfl
@[simp] theorem writeV_mem (r : Reg) (v : Byte) : (s.writeV r v).mem = s.mem := rfl
@[simp] theorem writeV_V (r : Reg) (v : Byte) : (s.writeV r v).V = s.V.set r v := rfl
@[simp] theorem writeV_K (r : Reg) (v : Byte) : (s.writeV r v).K = s.K := rfl
@[simp] theorem writeV_stack (r : Reg) (v : Byte) : (s.writeV r v).stack = s.stack := rfl
@[simp] theorem writeV_sp (r : Reg) (v : Byte) : (s.writeV r v).sp = s.sp := rfl
@[simp] theorem writeV_pc (r : Reg) (v : Byte) : (s.writeV r v).pc = s.pc := rfl
@[simp] theorem writeV_I (r : Reg) (v : Byte) : (s.writeV r v).I = s.I := rfl
@[simp] theorem writeV_DT (r : Reg) (v : Byte) : (s.writeV r v).DT = s.DT := rfl
@[simp] theorem writeV_ST (r : Reg) (v : Byte) : (s.writeV r v).ST = s.ST := rfl
@[simp] theorem writeV_fb (r : Reg) (v : Byte) : (s.writeV r v).fb = s.fb := rfl
@[simp] theorem writeV_dirty (r : Reg) (v : Byte) : (s.writeV r v).dirty = s.dirty := rfl
@[simp] theorem writeV_wait (r : Reg) (v : Byte) : (s.writeV r v).wait = s.wait := rfl
@[simp] theorem writeV_fault (r : Reg) (v : Byte) : (s.writeV r v).fault = s.fault := rfl
@[simp] theorem writeV_inbox (r : Reg) (v : Byte) : (s.writeV r v).inbox = s.inbox := rfl
@[simp] theorem writeV_rndIn (r : Reg) (v : Byte) : (s.writeV r v).rndIn = s.rndIn := rfl
@[simp] theorem writeV_draws (r : Reg) (v : Byte) : (s.writeV r v).draws = s.draws := rfl
@[simp] theorem writeV_out (r : Reg) (v : Byte) : (s.writeV r v).out = s.out := rfl
@[simp] theorem writeV_readK (r : Reg) (v : Byte) (u : Key) : (s.writeV r v).readK u = s.readK u := rfl
@[simp] theorem writeV_peek (r : Reg) (v : Byte) (u : Nat) : (s.writeV r v).peek u = s.peek u := rfl

/-! `writeK` -/

@[simp] theorem writeK_cfg (k : Key) (p : Bool) : (s.writeK k p).cfg = s.cfg := rfl
@[simp] theorem writeK_mem (k : Key) (p : Bool) : (s.writeK k p).mem = s.mem := rfl
@[simp] theorem writeK_V (k : Key) (p : Bool) : (s.writeK k p).V = s.V := rfl
@[simp] theorem writeK_K (k : Key) (p : Bool) : (s.writeK k p).K = s.K.set k p := rfl
@[simp] theorem writeK_stack (k : Key) (p : Bool) : (s.writeK k p).stack = s.stack := rfl
@[simp] theorem writeK_sp (k : Key) (p : Bool) : (s.writeK k p).sp = s.sp := rfl
@[simp] theorem writeK_pc (k : Key) (p : Bool) : (s.writeK k p).pc = s.pc := rfl
@[simp] theorem writeK_I (k : Key) (p : Bool) : (s.writeK k p).I = s.I := rfl
@[simp] theorem writeK_DT (k : Key) (p : Bool) : (s.writeK k p).DT = s.DT := rfl
@[simp] theorem writeK_ST (k : Key) (p : Bool) : (s.writeK k p).ST = s.ST := rfl
@[simp] theorem writeK_fb (k : Key) (p : Bool) : (s.writeK k p).fb = s.fb := rfl
@[simp] theorem writeK_dirty (k : Key) (p : Bool) : (s.writeK k p).dirty = s.dirty := rfl
@[simp] theorem writeK_wait (k : Key) (p : Bool) : (s.writeK k p).wait = s.wait := rfl
@[simp] theorem writeK_fault (k : Key) (p : Bool) : (s.writeK k p).fault = s.fault := rfl
@[simp] theorem writeK_inbox (k : Key) (p : Bool) : (s.writeK k p).inbox = s.inbox := rfl
@[simp] theorem writeK_rndIn (k : Key) (p : Bool) : (s.writeK k p).rndIn = s.rndIn := rfl
@[simp] theorem writeK_draws (k : Key) (p : Bool) : (s.writeK k p).draws = s.draws := rfl
@[simp] theorem writeK_out (k : Key) (p : Bool) : (s.writeK k p).out = s.out := rfl
@[simp] theorem writeK_readV (k : Key) (p : Bool) (q : Reg) : (s.writeK k p).readV q = s.readV q := rfl
@[simp] theorem writeK_peek (k : Key) (p : Bool) (u : Nat) : (s.writeK k p).peek u = s.peek u := rfl

/-! `setPc` -/

@[simp] theorem setPc_cfg (a : Word) : (s.setPc a).cfg = s.cfg := rfl
@[simp] theorem setPc_mem (a : Word) : (s.setPc a).mem = s.mem := rfl
@[simp] theorem setPc_V (a : Word) : (s.setPc a).V = s.V := rfl
@[simp] theorem setPc_K (a : Word) : (s.setPc a).K = s.K := rfl
@[simp] theorem setPc_stack (a : Word) : (s.setPc a).stack = s.stack := rfl
@[simp] theorem setPc_sp (a : Word) : (s.setPc a).sp = s.sp := rfl
@[simp] theorem setPc_pc (a : Word) : (s.setPc a).pc = a := rfl
@[simp] theorem setPc_I (a : Word) : (s.setPc a).I = s.I := rfl
@[simp] theorem setPc_DT (a : Word) : (s.setPc a).DT = s.DT := rfl
@[simp] theorem setPc_ST (a : Word) : (s.setPc a).ST = s.ST := rfl
@[simp] theorem setPc_fb (a : Word) : (s.setPc a).fb = s.fb := rfl
@[simp] theorem setPc_dirty (a : Word) : (s.setPc a).dirty = s.dirty := rfl
@[simp] theorem setPc_wait (a : Word) : (s.setPc a).wait = s.wait := rfl
@[simp] theorem setPc_fault (a : Word) : (s.setPc a).fault = s.fault := rfl
@[simp] theorem setPc_inbox (a : Word) : (s.setPc a).inbox = s.inbox := rfl
@[simp] theorem setPc_rndIn (a : Word) : (s.setPc a).rndIn = s.rndIn := rfl
@[simp] theorem setPc_draws (a : Word) : (s.setPc a).draws = s.draws := rfl
@[simp] theorem setPc_out (a : Word) : (s.setPc a).out = s.out := rfl
@[simp] theorem setPc_readV (a : Word) (q : Reg) : (s.setPc a).readV q = s.readV q := rfl
@[simp] theorem setPc_readK (a : Word) (u : Key) : (s.setPc a).readK u = s.readK u := rfl
@[simp] theorem setPc_peek (a : Word) (u : Nat) : (s.setPc a).peek u = s.peek u := rfl

/-! `setI` -/

@[simp] theorem setI_cfg (a : Word) : (s.setI a).cfg = s.cfg := rfl
@[simp] theorem setI_mem (a : Word) : (s.setI a).mem = s.mem := rfl
@[simp] theorem setI_V (a : Word) : (s.setI a).V = s.V := rfl
@[simp] theorem setI_K (a : Word) : (s.setI a).K = s.K := rfl
@[simp] theorem setI_stack (a : Word) : (s.setI a).stack = s.stack := rfl
@[simp] theorem setI_sp (a : Word) : (s.setI a).sp = s.sp := rfl
@[simp] theorem setI_pc (a : Word) : (s.setI a).pc = s.pc := rfl
@[simp] theorem setI_I (a : Word) : (s.setI a).I = a := rfl
@[simp] theorem setI_DT (a : Word) : (s.setI a).DT = s.DT := rfl
@[simp] theorem setI_ST (a : Word) : (s.setI a).ST = s.ST := rfl
@[simp] theorem setI_fb (a : Word) : (s.setI a).fb = s.fb := rfl
@[simp] theorem setI_dirty (a : Word) : (s.setI a).dirty = s.dirty := rfl
@[simp] theorem setI_wait (a : Word) : (s.setI a).wait = s.wait := rfl
@[simp] theorem setI_fault (a : Word) : (s.setI a).fault = s.fault := rfl
@[simp] theorem setI_inbox (a : Word) : (s.setI a).inbox = s.inbox := rfl
@[simp] theorem setI_rndIn (a : Word) : (s.setI a).rndIn = s.rndIn := rfl
@[simp] theorem setI_draws (a : Word) : (s.setI a).draws = s.draws := rfl
@[simp] theorem setI_out (a : Word) : (s.setI a).out = s.out := rfl
@[simp] theorem setI_readV (a : Word) (q : Reg) : (s.setI a).readV q = s.readV q := rfl
@[simp] theorem setI_readK (a : Word) (u : Key) : (s.setI a).readK u = s.readK u := rfl
@[simp] theorem setI_peek (a : Word) (u : Nat) : (s.setI a).peek u = s.peek u := rfl

/-! `setDT` -/

@[simp] theorem setDT_cfg (v : Byte) : (s.setDT v).cfg = s.cfg := rfl
@[simp] theorem setDT_mem (v : Byte) : (s.setDT v).mem = s.mem := rfl
@[simp] theorem setDT_V (v : Byte) : (s.setDT v).V = s.V := rfl
@[simp] theorem setDT_K (v : Byte) : (s.setDT v).K = s.K := rfl
@[simp] theorem setDT_stack (v : Byte) : (s.setDT v).stack = s.stack := rfl
@[simp] theorem setDT_sp (v : Byte) : (s.setDT v).sp = s.sp := rfl
@[simp] theorem setDT_pc (v : Byte) : (s.setDT v).pc = s.pc := rfl
@[simp] theorem setDT_I (v : Byte) : (s.setDT v).I = s.I := rfl
@[simp] theorem setDT_DT (v : Byte) : (s.setDT v).DT = v := rfl
@[simp] theorem setDT_ST (v : Byte) : (s.setDT v).ST = s.ST := rfl
@[simp] theorem setDT_fb (v : Byte) : (s.setDT v).fb = s.fb := rfl
@[simp] theorem setDT_dirty (v : Byte) : (s.setDT v).dirty = s.dirty := rfl
@[simp] theorem setDT_wait (v : Byte) : (s.setDT v).wait = s.wait := rfl
@[simp] theorem setDT_fault (v : Byte) : (s.setDT v).fault = s.fault := rfl
@[simp] theorem setDT_inbox (v : Byte) : (s.setDT v).inbox = s.inbox := rfl
@[simp] theorem setDT_rndIn (v : Byte) : (s.setDT v).rndIn = s.rndIn := rfl
@[simp] theorem setDT_draws (v : Byte) : (s.setDT v).draws = s.draws := rfl
@[simp] theorem setDT_out (v : Byte) : (s.setDT v).out = s.out := rfl
@[simp] theorem setDT_readV (v : Byte) (q : Reg) : (s.setDT v).readV q = s.readV q := rfl
@[simp] theorem setDT_readK (v : Byte) (u : Key) : (s.setDT v).readK u = s.readK u := rfl
@[simp] theorem setDT_peek (v : Byte) (u : Nat) : (s.setDT v).peek u = s.peek u := rfl

/-! `setST` -/

@[simp] theorem setST_cfg (v : Byte) : (s.setST v).cfg = s.cfg := rfl
@[simp] theorem setST_mem (v : Byte) : (s.setST v).mem = s.mem := rfl
@[simp] theorem setST_V (v : Byte) : (s.setST v).V = s.V := rfl
@[simp] theorem setST_K (v : Byte) : (s.setST v).K = s.K := rfl
@[simp] theorem setST_stack (v : Byte) : (s.setST v).stack = s.stack := rfl
@[simp] theorem setST_sp (v : Byte) : (s.setST v).sp = s.sp := rfl
@[simp] theorem setST_pc (v : Byte) : (s.setST v).pc = s.pc := rfl
@[simp] theorem setST_I (v : Byte) : (s.setST v).I = s.I := rfl
@[simp] theorem setST_DT (v : Byte) : (s.setST v).DT = s.DT := rfl
@[simp] theorem setST_ST (v : Byte) : (s.setST v).ST = v := rfl
@[simp] theorem setST_fb (v : Byte) : (s.setST v).fb = s.fb := rfl
@[simp] theorem setST_dirty (v : Byte) : (s.setST v).dirty = s.dirty := rfl
@[simp] theorem setST_wait (v : Byte) : (s.setST v).wait = s.wait := rfl
@[simp] theorem setST_fault (v : Byte) : (s.setST v).fault = s.fault := rfl
@[simp] theorem setST_inbox (v : Byte) : (s.setST v).inbox = s.inbox := rfl
@[simp] theorem setST_rndIn (v : Byte) : (s.setST v).rndIn = s.rndIn := rfl
@[simp] theorem setST_draws (v : Byte) : (s.setST v).draws = s.draws := rfl
@[simp] theorem setST_out (v : Byte) : (s.setST v).out = s.out := rfl
@[simp] theorem setST_readV (v : Byte) (q : Reg) : (s.setST v).readV q = s.readV q := rfl
@[simp] theorem setST_readK (v : Byte) (u : Key) : (s.setST v).readK u = s.readK u := rfl
@[simp] theorem setST_peek (v : Byte) (u : Nat) : (s.setST v).peek u = s.peek u := rfl

/-! `setDirty` -/

@[simp] theorem setDirty_cfg (b : Bool) : (s.setDirty b).cfg = s.cfg := rfl
@[simp] theorem setDirty_mem (b : Bool) : (s.setDirty b).mem = s.mem := rfl
@[simp] theorem setDirty_V (b : Bool) : (s.setDirty b).V = s.V := rfl
@[simp] theorem setDirty_K (b : Bool) : (s.setDirty b).K = s.K := rfl
@[simp] theorem setDirty_stack (b : Bool) : (s.setDirty b).stack = s.stack := rfl
@[simp] theorem setDirty_sp (b : Bool) : (s.setDirty b).sp = s.sp := rfl
@[simp] theorem setDirty_pc (b : Bool) : (s.setDirty b).pc = s.pc := rfl
@[simp] theorem setDirty_I (b : Bool) : (s.setDirty b).I = s.I := rfl
@[simp] theorem setDirty_DT (b : Bool) : (s.setDirty b).DT = s.DT := rfl
@[simp] theorem setDirty_ST (b : Bool) : (s.setDirty b).ST = s.ST := rfl
@[simp] theorem setDirty_fb (b : Bool) : (s.setDirty b).fb = s.fb := rfl
@[simp] theorem setDirty_dirty (b : Bool) : (s.setDirty b).dirty = b := rfl
@[simp] theorem setDirty_wait (b : Bool) : (s.setDirty b).wait = s.wait := rfl
@[simp] theorem setDirty_fault (b : Bool) : (s.setDirty b).fault = s.fault := rfl
@[simp] theorem setDirty_inbox (b : Bool) : (s.setDirty b).inbox = s.inbox := rfl
@[simp] theorem setDirty_rndIn (b : Bool) : (s.setDirty b).rndIn = s.rndIn := rfl
@[simp] theorem setDirty_draws (b : Bool) : (s.setDirty b).draws = s.draws := rfl
@[simp] theorem setDirty_out (b : Bool) : (s.setDirty b).out = s.out := rfl
@[simp] theorem setDirty_readV (b : Bool) (q : Reg) : (s.setDirty b).readV q = s.readV q := rfl
@[simp] theorem setDirty_readK (b : Bool) (u : Key) : (s.setDirty b).readK u = s.readK u := rfl
@[simp] theorem setDirty_peek (b : Bool) (u : Nat) : (s.setDirty b).peek u = s.peek u := rfl

/-! `setFb` -/

@[simp] theorem setFb_cfg (f : FrameBuffer) : (s.setFb f).cfg = s.cfg := rfl
@[simp] theorem setFb_mem (f : FrameBuffer) : (s.setFb f).mem = s.mem := rfl
@[simp] theorem setFb_V (f : FrameBuffer) : (s.setFb f).V = s.V := rfl
@[simp] theorem setFb_K (f : FrameBuffer) : (s.setFb f).K = s.K := rfl
@[simp] theorem setFb_stack (f : FrameBuffer) : (s.setFb f).stack = s.stack := rfl
@[simp] theorem setFb_sp (f : FrameBuffer) : (s.setFb f).sp = s.sp := rfl
@[simp] theorem setFb_pc (f : FrameBuffer) : (s.setFb f).pc = s.pc := rfl
@[simp] theorem setFb_I (f : FrameBuffer) : (s.setFb f).I = s.I := rfl
@[simp] theorem setFb_DT (f : FrameBuffer) : (s.setFb f).DT = s.DT := rfl
@[simp] theorem setFb_ST (f : FrameBuffer) : (s.setFb f).ST = s.ST := rfl
@[simp] theorem setFb_fb (f : FrameBuffer) : (s.setFb f).fb = f := rfl
@[simp] theorem setFb_dirty (f : FrameBuffer) : (s.setFb f).dirty = s.dirty := rfl
@[simp] theorem setFb_wait (f : FrameBuffer) : (s.setFb f).wait = s.wait := rfl
@[simp] theorem setFb_fault (f : FrameBuffer) : (s.setFb f).fault = s.fault := rfl
@[simp] theorem setFb_inbox (f : FrameBuffer) : (s.setFb f).inbox = s.inbox := rfl
@[simp] theorem setFb_rndIn (f : FrameBuffer) : (s.setFb f).rndIn = s.rndIn := rfl
@[simp] theorem setFb_draws (f : FrameBuffer) : (s.setFb f).draws = s.draws := rfl
@[simp] theorem setFb_out (f : FrameBuffer) : (s.setFb f).out = s.out := rfl
@[simp] theorem setFb_readV (f : FrameBuffer) (q : Reg) : (s.setFb f).readV q = s.readV q := rfl
@[simp] theorem setFb_readK (f : FrameBuffer) (u : Key) : (s.setFb f).readK u = s.readK u := rfl
@[simp] theorem setFb_peek (f : FrameBuffer) (u : Nat) : (s.setFb f).peek u = s.peek u := rfl

/-! `setWait` -/

@[simp] theorem setWait_cfg (w : WaitLatch) : (s.setWait w).cfg = s.cfg := rfl
@[simp] theorem setWait_mem (w : WaitLatch) : (s.setWait w).mem = s.mem := rfl
@[simp] theorem setWait_V (w : WaitLatch) : (s.setWait w).V = s.V := rfl
@[simp] theorem setWait_K (w : WaitLatch) : (s.setWait w).K = s.K := rfl
@[simp] theorem setWait_stack (w : WaitLatch) : (s.setWait w).stack = s.stack := rfl
@[simp] theorem setWait_sp (w : WaitLatch) : (s.setWait w).sp = s.sp := rfl
@[simp] theorem setWait_pc (w : WaitLatch) : (s.setWait w).pc = s.pc := rfl
@[simp] theorem setWait_I (w : WaitLatch) : (s.setWait w).I = s.I := rfl
@[simp] theorem setWait_DT (w : WaitLatch) : (s.setWait w).DT = s.DT := rfl
@[simp] theorem setWait_ST (w : WaitLatch) : (s.setWait w).ST = s.ST := rfl
@[simp] theorem setWait_fb (w : WaitLatch) : (s.setWait w).fb = s.fb := rfl
@[simp] theorem setWait_dirty (w : WaitLatch) : (s.setWait w).dirty = s.dirty := rfl
@[simp] theorem setWait_wait (w : WaitLatch) : (s.setWait w).wait = w := rfl
@[simp] theorem setWait_fault (w : WaitLatch) : (s.setWait w).fault = s.fault := rfl
@[simp] theorem setWait_inbox (w : WaitLatch) : (s.setWait w).inbox = s.inbox := rfl
@[simp] theorem setWait_rndIn (w : WaitLatch) : (s.setWait w).rndIn = s.rndIn := rfl
@[simp] theorem setWait_draws (w : WaitLatch) : (s.setWait w).draws = s.draws := rfl
@[simp] theorem setWait_out (w : WaitLatch) : (s.setWait w).out = s.out := rfl
@[simp] theorem setWait_readV (w : WaitLatch) (q : Reg) : (s.setWait w).readV q = s.readV q := rfl
@[simp] theorem setWait_readK (w : WaitLatch) (u : Key) : (s.setWait w).readK u = s.readK u := rfl
@[simp] theorem setWait_peek (w : WaitLatch) (u : Nat) : (s.setWait w).peek u = s.peek u := rfl

/-! `setFault` -/

@[simp] theorem setFault_cfg (f : FaultLatch) : (s.setFault f).cfg = s.cfg := rfl
@[simp] theorem setFault_mem (f : FaultLatch) : (s.setFault f).mem = s.mem := rfl
@[simp] theorem setFault_V (f : FaultLatch) : (s.setFault f).V = s.V := rfl
@[simp] theorem setFault_K (f : FaultLatch) : (s.setFault f).K = s.K := rfl
@[simp] theorem setFault_stack (f : FaultLatch) : (s.setFault f).stack = s.stack := rfl
@[simp] theorem setFault_sp (f : FaultLatch) : (s.setFault f).sp = s.sp := rfl
@[simp] theorem setFault_pc (f : FaultLatch) : (s.setFault f).pc = s.pc := rfl
@[simp] theorem setFault_I (f : FaultLatch) : (s.setFault f).I = s.I := rfl
@[simp] theorem setFault_DT (f : FaultLatch) : (s.setFault f).DT = s.DT := rfl
@[simp] theorem setFault_ST (f : FaultLatch) : (s.setFault f).ST = s.ST := rfl
@[simp] theorem setFault_fb (f : FaultLatch) : (s.setFault f).fb = s.fb := rfl
@[simp] theorem setFault_dirty (f : FaultLatch) : (s.setFault f).dirty = s.dirty := rfl
@[simp] theorem setFault_wait (f : FaultLatch) : (s.setFault f).wait = s.wait := rfl
@[simp] theorem setFault_fault (f : FaultLatch) : (s.setFault f).fault = f := rfl
@[simp] theorem setFault_inbox (f : FaultLatch) : (s.setFault f).inbox = s.inbox := rfl
@[simp] theorem setFault_rndIn (f : FaultLatch) : (s.setFault f).rndIn = s.rndIn := rfl
@[simp] theorem setFault_draws (f : FaultLatch) : (s.setFault f).draws = s.draws := rfl
@[simp] theorem setFault_out (f : FaultLatch) : (s.setFault f).out = s.out := rfl
@[simp] theorem setFault_readV (f : FaultLatch) (q : Reg) : (s.setFault f).readV q = s.readV q := rfl
@[simp] theorem setFault_readK (f : FaultLatch) (u : Key) : (s.setFault f).readK u = s.readK u := rfl
@[simp] theorem setFault_peek (f : FaultLatch) (u : Nat) : (s.setFault f).peek u = s.peek u := rfl

/-! `writeStack` -/

@[simp] theorem writeStack_cfg (i : Nat) (v : Word) : (s.writeStack i v).cfg = s.cfg := rfl
@[simp] theorem writeStack_mem (i : Nat) (v : Word) : (s.writeStack i v).mem = s.mem := rfl
@[simp] theorem writeStack_V (i : Nat) (v : Word) : (s.writeStack i v).V = s.V := rfl
@[simp] theorem writeStack_K (i : Nat) (v : Word) : (s.writeStack i v).K = s.K := rfl
@[simp] theorem writeStack_stack (i : Nat) (v : Word) : (s.writeStack i v).stack = stackWrite s.stack i v := rfl
@[simp] theorem writeStack_sp (i : Nat) (v : Word) : (s.writeStack i v).sp = s.sp := rfl
@[simp] theorem writeStack_pc (i : Nat) (v : Word) : (s.writeStack i v).pc = s.pc := rfl
@[simp] theorem writeStack_I (i : Nat) (v : Word) : (s.writeStack i v).I = s.I := rfl
@[simp] theorem writeStack_DT (i : Nat) (v : Word) : (s.writeStack i v).DT = s.DT := rfl
@[simp] theorem writeStack_ST (i : Nat) (v : Word) : (s.writeStack i v).ST = s.ST := rfl
@[simp] theorem writeStack_fb (i : Nat) (v : Word) : (s.writeStack i v).fb = s.fb := rfl
@[simp] theorem writeStack_dirty (i : Nat) (v : Word) : (s.writeStack i v).dirty = s.dirty := rfl
@[simp] theorem writeStack_wait (i : Nat) (v : Word) : (s.writeStack i v).wait = s.wait := rfl
@[simp] theorem writeStack_fault (i : Nat) (v : Word) : (s.writeStack i v).fault = s.fault := rfl
@[simp] theorem writeStack_inbox (i : Nat) (v : Word) : (s.writeStack i v).inbox = s.inbox := rfl
@[simp] theorem writeStack_rndIn (i : Nat) (v : Word) : (s.writeStack i v).rndIn = s.rndIn := rfl
@[simp] theorem writeStack_draws (i : Nat) (v : Word) : (s.writeStack i v).draws = s.draws := rfl
@[simp] theorem writeStack_out (i : Nat) (v : Word) : (s.writeStack i v).out = s.out := rfl
@[simp] theorem writeStack_readV (i : Nat) (v : Word) (q : Reg) : (s.writeStack i v).readV q = s.readV q := rfl
@[simp] theorem writeStack_readK (i : Nat) (v : Word) (u : Key) : (s.writeStack i v).readK u = s.readK u := rfl
@[simp] theorem writeStack_peek (i : Nat) (v : Word) (u : Nat) : (s.writeStack i v).peek u = s.peek u := rfl

/-! `setSp` -/

@[simp] theorem setSp_cfg (n : Nat) : (s.setSp n).cfg = s.cfg := rfl
@[simp] theorem setSp_mem (n : Nat) : (s.setSp n).mem = s.mem := rfl
@[simp] theorem setSp_V (n : Nat) : (s.setSp n).V = s.V := rfl
@[simp] theorem setSp_K (n : Nat) : (s.setSp n).K = s.K := rfl
@[simp] theorem setSp_stack (n : Nat) : (s.setSp n).stack = s.stack := rfl
@[simp] theorem setSp_sp (n : Nat) : (s.setSp n).sp = n := rfl
@[simp] theorem setSp_pc (n : Nat) : (s.setSp n).pc = s.pc := rfl
@[simp] theorem setSp_I (n : Nat) : (s.setSp n).I = s.I := rfl
@[simp] theorem setSp_DT (n : Nat) : (s.setSp n).DT = s.DT := rfl
@[simp] theorem setSp_ST (n : Nat) : (s.setSp n).ST = s.ST := rfl
@[simp] theorem setSp_fb (n : Nat) : (s.setSp n).fb = s.fb := rfl
@[simp] theorem setSp_dirty (n : Nat) : (s.setSp n).dirty = s.dirty := rfl
@[simp] theorem setSp_wait (n : Nat) : (s.setSp n).wait = s.wait := rfl
@[simp] theorem setSp_fault (n : Nat) : (s.setSp n).fault = s.fault := rfl
@[simp] theorem setSp_inbox (n : Nat) : (s.setSp n).inbox = s.inbox := rfl
@[simp] theorem setSp_rndIn (n : Nat) : (s.setSp n).rndIn = s.rndIn := rfl
@[simp] theorem setSp_draws (n : Nat) : (s.setSp n).draws = s.draws := rfl
@[simp] theorem setSp_out (n : Nat) : (s.setSp n).out = s.out := rfl
@[simp] theorem setSp_readV (n : Nat) (q : Reg) : (s.setSp n).readV q = s.readV q := rfl
@[simp] theorem setSp_readK (n : Nat) (u : Key) : (s.setSp n).readK u = s.readK u := rfl
@[simp] theorem setSp_peek (n : Nat) (u : Nat) : (s.setSp n).peek u = s.peek u := rfl

/-! `poke` -/

@[simp] theorem poke_cfg (a : Nat) (v : Byte) : (s.poke a v).cfg = s.cfg := rfl
@[simp] theorem poke_mem (a : Nat) (v : Byte) : (s.poke a v).mem = s.mem.write s.cfg a v := rfl
@[simp] theorem poke_V (a : Nat) (v : Byte) : (s.poke a v).V = s.V := rfl
@[simp] theorem poke_K (a : Nat) (v : Byte) : (s.poke a v).K = s.K := rfl
@[simp] theorem poke_stack (a : Nat) (v : Byte) : (s.poke a v).stack = s.stack := rfl
@[simp] theorem poke_sp (a : Nat) (v : Byte) : (s.poke a v).sp = s.sp := rfl
@[simp] theorem poke_pc (a : Nat) (v : Byte) : (s.poke a v).pc = s.pc := rfl
@[simp] theorem poke_I (a : Nat) (v : Byte) : (s.poke a v).I = s.I := rfl
@[simp] theorem poke_DT (a : Nat) (v : Byte) : (s.poke a v).DT = s.DT := rfl
@[simp] theorem poke_ST (a : Nat) (v : Byte) : (s.poke a v).ST = s.ST := rfl
@[simp] theorem poke_fb (a : Nat) (v : Byte) : (s.poke a v).fb = s.fb := rfl
@[simp] theorem poke_dirty (a : Nat) (v : Byte) : (s.poke a v).dirty = s.dirty := rfl
@[simp] theorem poke_wait (a : Nat) (v : Byte) : (s.poke a v).wait = s.wait := rfl
@[simp] theorem poke_fault (a : Nat) (v : Byte) : (s.poke a v).fault = s.fault := rfl
@[simp] theorem poke_inbox (a : Nat) (v : Byte) : (s.poke a v).inbox = s.inbox := rfl
@[simp] theorem poke_rndIn (a : Nat) (v : Byte) : (s.poke a v).rndIn = s.rndIn := rfl
@[simp] theorem poke_draws (a : Nat) (v : Byte) : (s.poke a v).draws = s.draws := rfl
@[simp] theorem poke_out (a : Nat) (v : Byte) : (s.poke a v).out = s.out := rfl
@[simp] theorem poke_readV (a : Nat) (v : Byte) (q : Reg) : (s.poke a v).readV q = s.readV q := rfl
@[simp] theorem poke_readK (a : Nat) (v : Byte) (u : Key) : (s.poke a v).readK u = s.readK u := rfl

/-! `setInbox` -/

@[simp] theorem setInbox_cfg (es : List Event) : (s.setInbox es).cfg = s.cfg := rfl
@[simp] theorem setInbox_mem (es : List Event) : (s.setInbox es).mem = s.mem := rfl
@[simp] theorem setInbox_V (es : List Event) : (s.setInbox es).V = s.V := rfl
@[simp] theorem setInbox_K (es : List Event) : (s.setInbox es).K = s.K := rfl
@[simp] theorem setInbox_stack (es : List Event) : (s.setInbox es).stack = s.stack := rfl
@[simp] theorem setInbox_sp (es : List Event) : (s.setInbox es).sp = s.sp := rfl
@[simp] theorem setInbox_pc (es : List Event) : (s.setInbox es).pc = s.pc := rfl
@[simp] theorem setInbox_I (es : List Event) : (s.setInbox es).I = s.I := rfl
@[simp] theorem setInbox_DT (es : List Event) : (s.setInbox es).DT = s.DT := rfl
@[simp] theorem setInbox_ST (es : List Event) : (s.setInbox es).ST = s.ST := rfl
@[simp] theorem setInbox_fb (es : List Event) : (s.setInbox es).fb = s.fb := rfl
@[simp] theorem setInbox_dirty (es : List Event) : (s.setInbox es).dirty = s.dirty := rfl
@[simp] theorem setInbox_wait (es : List Event) : (s.setInbox es).wait = s.wait := rfl
@[simp] theorem setInbox_fault (es : List Event) : (s.setInbox es).fault = s.fault := rfl
@[simp] theorem setInbox_inbox (es : List Event) : (s.setInbox es).inbox = es := rfl
@[simp] theorem setInbox_rndIn (es : List Event) : (s.setInbox es).rndIn = s.rndIn := rfl
@[simp] theorem setInbox_draws (es : List Event) : (s.setInbox es).draws = s.draws := rfl
@[simp] theorem setInbox_out (es : List Event) : (s.setInbox es).out = s.out := rfl
@[simp] theorem setInbox_readV (es : List Event) (q : Reg) : (s.setInbox es).readV q = s.readV q := rfl
@[simp] theorem setInbox_readK (es : List Event) (u : Key) : (s.setInbox es).readK u = s.readK u := rfl
@[simp] theorem setInbox_peek (es : List Event) (u : Nat) : (s.setInbox es).peek u = s.peek u := rfl

/-! `setRndIn` -/

@[simp] theorem setRndIn_cfg (q : Option Byte) : (s.setRndIn q).cfg = s.cfg := rfl
@[simp] theorem setRndIn_mem (q : Option Byte) : (s.setRndIn q).mem = s.mem := rfl
@[simp] theorem setRndIn_V (q : Option Byte) : (s.setRndIn q).V = s.V := rfl
@[simp] theorem setRndIn_K (q : Option Byte) : (s.setRndIn q).K = s.K := rfl
@[simp] theorem setRndIn_stack (q : Option Byte) : (s.setRndIn q).stack = s.stack := rfl
@[simp] theorem setRndIn_sp (q : Option Byte) : (s.setRndIn q).sp = s.sp := rfl
@[simp] theorem setRndIn_pc (q : Option Byte) : (s.setRndIn q).pc = s.pc := rfl
@[simp] theorem setRndIn_I (q : Option Byte) : (s.setRndIn q).I = s.I := rfl
@[simp] theorem setRndIn_DT (q : Option Byte) : (s.setRndIn q).DT = s.DT := rfl
@[simp] theorem setRndIn_ST (q : Option Byte) : (s.setRndIn q).ST = s.ST := rfl
@[simp] theorem setRndIn_fb (q : Option Byte) : (s.setRndIn q).fb = s.fb := rfl
@[simp] theorem setRndIn_dirty (q : Option Byte) : (s.setRndIn q).dirty = s.dirty := rfl
@[simp] theorem setRndIn_wait (q : Option Byte) : (s.setRndIn q).wait = s.wait := rfl
@[simp] theorem setRndIn_fault (q : Option Byte) : (s.setRndIn q).fault = s.fault := rfl
@[simp] theorem setRndIn_inbox (q : Option Byte) : (s.setRndIn q).inbox = s.inbox := rfl
@[simp] theorem setRndIn_rndIn (q : Option Byte) : (s.setRndIn q).rndIn = q := rfl
@[simp] theorem setRndIn_draws (q : Option Byte) : (s.setRndIn q).draws = s.draws := rfl
@[simp] theorem setRndIn_out (q : Option Byte) : (s.setRndIn q).out = s.out := rfl
@[simp] theorem setRndIn_readV (q : Option Byte) (u : Reg) : (s.setRndIn q).readV u = s.readV u := rfl
@[simp] theorem setRndIn_readK (q : Option Byte) (u : Key) : (s.setRndIn q).readK u = s.readK u := rfl
@[simp] theorem setRndIn_peek (q : Option Byte) (u : Nat) : (s.setRndIn q).peek u = s.peek u := rfl

/-! `setDraws` -/

@[simp] theorem setDraws_cfg (n : Nat) : (s.setDraws n).cfg = s.cfg := rfl
@[simp] theorem setDraws_mem (n : Nat) : (s.setDraws n).mem = s.mem := rfl
@[simp] theorem setDraws_V (n : Nat) : (s.setDraws n).V = s.V := rfl
@[simp] theorem setDraws_K (n : Nat) : (s.setDraws n).K = s.K := rfl
@[simp] theorem setDraws_stack (n : Nat) : (s.setDraws n).stack = s.stack := rfl
@[simp] theorem setDraws_sp (n : Nat) : (s.setDraws n).sp = s.sp := rfl
@[simp] theorem setDraws_pc (n : Nat) : (s.setDraws n).pc = s.pc := rfl
@[simp] theorem setDraws_I (n : Nat) : (s.setDraws n).I = s.I := rfl
@[simp] theorem setDraws_DT (n : Nat) : (s.setDraws n).DT = s.DT := rfl
@[simp] theorem setDraws_ST (n : Nat) : (s.setDraws n).ST = s.ST := rfl
@[simp] theorem setDraws_fb (n : Nat) : (s.setDraws n).fb = s.fb := rfl
@[simp] theorem setDraws_dirty (n : Nat) : (s.setDraws n).dirty = s.dirty := rfl
@[simp] theorem setDraws_wait (n : Nat) : (s.setDraws n).wait = s.wait := rfl
@[simp] theorem setDraws_fault (n : Nat) : (s.setDraws n).fault = s.fault := rfl
@[simp] theorem setDraws_inbox (n : Nat) : (s.setDraws n).inbox = s.inbox := rfl
@[simp] theorem setDraws_rndIn (n : Nat) : (s.setDraws n).rndIn = s.rndIn := rfl
@[simp] theorem setDraws_draws (n : Nat) : (s.setDraws n).draws = n := rfl
@[simp] theorem setDraws_out (n : Nat) : (s.setDraws n).out = s.out := rfl
@[simp] theorem setDraws_readV (n : Nat) (q : Reg) : (s.setDraws n).readV q = s.readV q := rfl
@[simp] theorem setDraws_readK (n : Nat) (u : Key) : (s.setDraws n).readK u = s.readK u := rfl
@[simp] theorem setDraws_peek (n : Nat) (u : Nat) : (s.setDraws n).peek u = s.peek u := rfl

/-! `setOut` -/

@[simp] theorem setOut_cfg (o : Option Output) : (s.setOut o).cfg = s.cfg := rfl
@[simp] theorem setOut_mem (o : Option Output) : (s.setOut o).mem = s.mem := rfl
@[simp] theorem setOut_V (o : Option Output) : (s.setOut o).V = s.V := rfl
@[simp] theorem setOut_K (o : Option Output) : (s.setOut o).K = s.K := rfl
@[simp] theorem setOut_stack (o : Option Output) : (s.setOut o).stack = s.stack := rfl
@[simp] theorem setOut_sp (o : Option Output) : (s.setOut o).sp = s.sp := rfl
@[simp] theorem setOut_pc (o : Option Output) : (s.setOut o).pc = s.pc := rfl
@[simp] theorem setOut_I (o : Option Output) : (s.setOut o).I = s.I := rfl
@[simp] theorem setOut_DT (o : Option Output) : (s.setOut o).DT = s.DT := rfl
@[simp] theorem setOut_ST (o : Option Output) : (s.setOut o).ST = s.ST := rfl
@[simp] theorem setOut_fb (o : Option Output) : (s.setOut o).fb = s.fb := rfl
@[simp] theorem setOut_dirty (o : Option Output) : (s.setOut o).dirty = s.dirty := rfl
@[simp] theorem setOut_wait (o : Option Output) : (s.setOut o).wait = s.wait := rfl
@[simp] theorem setOut_fault (o : Option Output) : (s.setOut o).fault = s.fault := rfl
@[simp] theorem setOut_inbox (o : Option Output) : (s.setOut o).inbox = s.inbox := rfl
@[simp] theorem setOut_rndIn (o : Option Output) : (s.setOut o).rndIn = s.rndIn := rfl
@[simp] theorem setOut_draws (o : Option Output) : (s.setOut o).draws = s.draws := rfl
@[simp] theorem setOut_out (o : Option Output) : (s.setOut o).out = o := rfl
@[simp] theorem setOut_readV (o : Option Output) (q : Reg) : (s.setOut o).readV q = s.readV q := rfl
@[simp] theorem setOut_readK (o : Option Output) (u : Key) : (s.setOut o).readK u = s.readK u := rfl
@[simp] theorem setOut_peek (o : Option Output) (u : Nat) : (s.setOut o).peek u = s.peek u := rfl

/-! Writing the value a field already holds. -/

@[simp] theorem setPc_self : s.setPc s.pc = s := rfl
@[simp] theorem setI_self : s.setI s.I = s := rfl
@[simp] theorem setDT_self : s.setDT s.DT = s := rfl
@[simp] theorem setST_self : s.setST s.ST = s := rfl
@[simp] theorem setDirty_self : s.setDirty s.dirty = s := rfl
@[simp] theorem setFb_self : s.setFb s.fb = s := rfl
@[simp] theorem setWait_self : s.setWait s.wait = s := rfl
@[simp] theorem setFault_self : s.setFault s.fault = s := rfl
@[simp] theorem setSp_self : s.setSp s.sp = s := rfl
@[simp] theorem setInbox_self : s.setInbox s.inbox = s := rfl
@[simp] theorem setRndIn_self : s.setRndIn s.rndIn = s := rfl
@[simp] theorem setDraws_self : s.setDraws s.draws = s := rfl
@[simp] theorem setOut_self : s.setOut s.out = s := rfl

end Sys2Proof.Machine.State
end

