-- ==== Sys2Proof/Laws/Lists.lean ====
section
/-! SUPPORT. Laws of the three list representations: memory, framebuffer, stack cells. -/

namespace Sys2Proof.Machine

/-! ### Rising lists -/

theorem rising_cons {a : Nat} {l : List Nat} :
    rising (a :: l) = true ↔ (∀ b ∈ l, a < b) ∧ rising l = true := by
  simp [rising, List.all_eq_true]

theorem rising_tail {a : Nat} {l : List Nat} (h : rising (a :: l) = true) : rising l = true :=
  (rising_cons.1 h).2

/-! ### Memory -/

namespace Memory

variable {c : Config}

theorem read_cons_ne {a b : Nat} {v : Byte} {m : Memory} (h : b ≠ a) :
    Memory.read c (Memory.cons c a v m) b = Memory.read c m b := by
  unfold Memory.cons
  split <;> simp [Memory.read, h]

/-- A write leaves every other address alone, in any list. -/
theorem read_write_ne (m : Memory) {a b : Nat} (v : Byte) (h : b ≠ a) :
    (m.write c a v).read c b = m.read c b := by
  induction m with
  | nil => simp [Memory.write, read_cons_ne h]
  | cons cell rest ih =>
    obtain ⟨d, u⟩ := cell
    unfold Memory.write
    split
    · simp [read_cons_ne h]
    · split
      · next _ hd => subst hd; simp [read_cons_ne h, Memory.read, h]
      · simp [Memory.read, ih]

/-- An address below every listed one reads as its reset contents. -/
theorem read_of_lt {m : Memory} {a : Nat} (h : ∀ b ∈ m.map Prod.fst, a < b) :
    m.read c a = c.initByte a := by
  induction m with
  | nil => rfl
  | cons cell rest ih =>
    obtain ⟨d, u⟩ := cell
    simp only [List.map_cons, List.mem_cons, forall_eq_or_imp] at h
    simp only [Memory.read]
    rw [if_neg (Nat.ne_of_lt h.1)]
    exact ih h.2

theorem read_cons_same {m : Memory} {a : Nat} {v : Byte} (h : ∀ b ∈ m.map Prod.fst, a < b) :
    (Memory.cons c a v m).read c a = v := by
  unfold Memory.cons
  split
  · next hv => rw [read_of_lt h, hv]
  · simp [Memory.read]

/-- A read after a write to the same address gives the value written. -/
theorem read_write_same {m : Memory} (hm : rising (m.map Prod.fst) = true) (a : Nat) (v : Byte) :
    (m.write c a v).read c a = v := by
  induction m with
  | nil => exact read_cons_same (by simp)
  | cons cell rest ih =>
    obtain ⟨d, u⟩ := cell
    have hr := rising_cons.1 (show rising (d :: rest.map Prod.fst) = true from hm)
    unfold Memory.write
    split
    · next had =>
      refine read_cons_same ?_
      simp only [List.map_cons, List.mem_cons, forall_eq_or_imp]
      exact ⟨had, fun b hb => Nat.lt_trans had (hr.1 b hb)⟩
    · split
      · next _ hd => subst hd; exact read_cons_same hr.1
      · next _ hd => simp [Memory.read, hd, ih hr.2]

theorem mem_write {m : Memory} {a : Nat} {v : Byte} {x : Host.Cell} (h : x ∈ m.write c a v) :
    x ∈ m ∨ (x = (a, v) ∧ v ≠ c.initByte a) := by
  induction m with
  | nil =>
    simp only [Memory.write, Memory.cons] at h
    split at h <;> simp_all
  | cons cell rest ih =>
    obtain ⟨d, u⟩ := cell
    simp only [Memory.write, Memory.cons] at h
    split at h
    · split at h
      · exact .inl h
      · next hv =>
        rcases List.mem_cons.1 h with rfl | h
        · exact .inr ⟨rfl, hv⟩
        · exact .inl h
    · split at h
      · split at h
        · exact .inl (List.mem_cons_of_mem _ h)
        · next hv =>
          rcases List.mem_cons.1 h with rfl | h
          · exact .inr ⟨rfl, hv⟩
          · exact .inl (List.mem_cons_of_mem _ h)
      · rcases List.mem_cons.1 h with h | h
        · simp [h]
        · rcases ih h with h | h <;> simp [h]

theorem rising_write {m : Memory} (hm : rising (m.map Prod.fst) = true) (a : Nat) (v : Byte) :
    rising ((m.write c a v).map Prod.fst) = true := by
  induction m with
  | nil => simp only [Memory.write, Memory.cons]; split <;> rfl
  | cons cell rest ih =>
    obtain ⟨d, u⟩ := cell
    have hr := rising_cons.1 (show rising (d :: rest.map Prod.fst) = true from hm)
    simp only [Memory.write]
    split
    · next had =>
      simp only [Memory.cons]
      split
      · exact hm
      · refine rising_cons.2 ⟨?_, hm⟩
        simp only [List.map_cons, List.mem_cons, forall_eq_or_imp]
        exact ⟨had, fun b hb => Nat.lt_trans had (hr.1 b hb)⟩
    · split
      · next _ hd =>
        subst hd
        simp only [Memory.cons]
        split
        · exact hr.2
        · exact rising_cons.2 hr
      · next hlt hne =>
        refine rising_cons.2 ⟨fun b hb => ?_, ih hr.2⟩
        obtain ⟨x, hx, rfl⟩ := List.mem_map.1 hb
        rcases mem_write hx with hx | ⟨rfl, -⟩
        · exact hr.1 _ (List.mem_map.2 ⟨x, hx, rfl⟩)
        · simp only; omega

theorem wf_iff {m : Memory} : m.wf c = true ↔
    rising (m.map Prod.fst) = true ∧ ∀ x ∈ m, x.1 < c.memSize ∧ x.2 ≠ c.initByte x.1 := by
  simp [Memory.wf, List.all_eq_true]

/-- Every write to an address of memory keeps the canonical form. -/
theorem wf_write {m : Memory} (hm : m.wf c = true) {a : Nat} (ha : a < c.memSize) (v : Byte) :
    (m.write c a v).wf c = true := by
  rw [wf_iff] at hm ⊢
  refine ⟨rising_write hm.1 a v, fun x hx => ?_⟩
  rcases mem_write hx with hx | ⟨rfl, hv⟩
  · exact hm.2 x hx
  · exact ⟨ha, hv⟩

theorem read_of_mem {m : Memory} (hm : rising (m.map Prod.fst) = true) {x : Host.Cell} (hx : x ∈ m) :
    m.read c x.1 = x.2 := by
  induction m with
  | nil => simp at hx
  | cons cell rest ih =>
    obtain ⟨d, u⟩ := cell
    have hr := rising_cons.1 (show rising (d :: rest.map Prod.fst) = true from hm)
    rcases List.mem_cons.1 hx with rfl | hx
    · simp [Memory.read]
    · have hd : d < x.1 := hr.1 _ (List.mem_map.2 ⟨x, hx, rfl⟩)
      simp only [Memory.read]
      rw [if_neg (Nat.ne_of_gt hd)]
      exact ih hr.2 hx

theorem listed_of_read_ne {m : Memory} {a : Nat} (h : m.read c a ≠ c.initByte a) :
    (a, m.read c a) ∈ m := by
  induction m with
  | nil => exact absurd rfl h
  | cons cell rest ih =>
    obtain ⟨d, u⟩ := cell
    simp only [Memory.read] at h ⊢
    split
    · next had => simp [had]
    · next had => rw [if_neg had] at h; exact List.mem_cons_of_mem _ (ih h)

end Memory

/-! ### Framebuffer -/

namespace FrameBuffer

/-- Toggling cell `i` leaves every other cell alone, in any list. -/
theorem lit_toggle_ne (fb : FrameBuffer) {i j : Nat} (h : j ≠ i) :
    FrameBuffer.lit (fb.toggle i) j = fb.lit j := by
  induction fb with
  | nil => simp [FrameBuffer.toggle, FrameBuffer.lit, h]
  | cons k rest ih =>
    unfold FrameBuffer.toggle
    split
    · simp [FrameBuffer.lit, h]
    · split
      · next _ hk => subst hk; simp [FrameBuffer.lit, h]
      · simp only [FrameBuffer.lit, List.contains_cons] at ih ⊢; rw [ih]

/-- Toggling cell `i` of a rising list inverts it. -/
theorem lit_toggle_same {fb : FrameBuffer} (hf : rising fb = true) (i : Nat) :
    FrameBuffer.lit (fb.toggle i) i = !fb.lit i := by
  induction fb with
  | nil => simp [FrameBuffer.toggle, FrameBuffer.lit]
  | cons k rest ih =>
    have hr := rising_cons.1 hf
    unfold FrameBuffer.toggle
    split
    · next hik =>
      have h1 : i ∉ k :: rest := by
        intro hm
        rcases List.mem_cons.1 hm with rfl | hm
        · omega
        · have := hr.1 i hm; omega
      simp only [FrameBuffer.lit, List.contains_cons, beq_self_eq_true, Bool.true_or]
      simp only [List.mem_cons, not_or] at h1
      simp [h1]
    · split
      · next _ hk =>
        subst hk
        have h1 : i ∉ rest := fun hm => absurd (hr.1 i hm) (Nat.lt_irrefl i)
        simp [FrameBuffer.lit, h1]
      · next _ hne =>
        simp only [FrameBuffer.lit, List.contains_cons] at ih ⊢
        rw [ih hr.2, beq_eq_false_iff_ne.2 hne]
        simp

theorem mem_toggle {fb : FrameBuffer} {i j : Nat} (h : j ∈ fb.toggle i) : j = i ∨ j ∈ fb := by
  induction fb with
  | nil => simpa [FrameBuffer.toggle] using h
  | cons k rest ih =>
    unfold FrameBuffer.toggle at h
    split at h
    · simpa using h
    · split at h
      · exact .inr (List.mem_cons_of_mem _ h)
      · rcases List.mem_cons.1 h with rfl | h
        · simp
        · rcases ih h with h | h <;> simp [h]

theorem rising_toggle {fb : FrameBuffer} (hf : rising fb = true) (i : Nat) : rising (fb.toggle i) = true := by
  induction fb with
  | nil => rfl
  | cons k rest ih =>
    have hr := rising_cons.1 hf
    unfold FrameBuffer.toggle
    split
    · next hik =>
      refine rising_cons.2 ⟨?_, hf⟩
      intro b hb
      rcases List.mem_cons.1 hb with rfl | hb
      · exact hik
      · exact Nat.lt_trans hik (hr.1 b hb)
    · split
      · exact hr.2
      · refine rising_cons.2 ⟨fun b hb => ?_, ih hr.2⟩
        rcases mem_toggle hb with rfl | hb
        · omega
        · exact hr.1 b hb

theorem wf_iff {c : Config} {fb : FrameBuffer} : fb.wf c = true ↔
    rising fb = true ∧ ∀ i ∈ fb, i < c.displayW * c.displayH := by
  simp [FrameBuffer.wf, List.all_eq_true]

/-- Toggling a cell of the framebuffer keeps the canonical form. -/
theorem wf_toggle {c : Config} {fb : FrameBuffer} (hf : fb.wf c = true) {i : Nat}
    (hi : i < c.displayW * c.displayH) : FrameBuffer.wf c (fb.toggle i) = true := by
  rw [wf_iff] at hf ⊢
  refine ⟨rising_toggle hf.1 i, fun j hj => ?_⟩
  rcases mem_toggle hj with rfl | hj
  · exact hi
  · exact hf.2 j hj

/-- Two rising lists with the same cells set are the same list. -/
theorem eq_of_lit {f g : FrameBuffer} (hf : rising f = true) (hg : rising g = true)
    (h : ∀ i, f.lit i = g.lit i) : f = g := by
  have hm : ∀ i, i ∈ f ↔ i ∈ g := fun i => by
    have := h i
    simp only [FrameBuffer.lit] at this
    rw [← List.contains_iff_mem, ← List.contains_iff_mem, this]
  induction f generalizing g with
  | nil =>
    cases g with
    | nil => rfl
    | cons b _ => exact absurd ((hm b).2 (by simp)) (by simp)
  | cons a f ih =>
    cases g with
    | nil => exact absurd ((hm a).1 (by simp)) (by simp)
    | cons b g =>
      have hf' := rising_cons.1 hf
      have hg' := rising_cons.1 hg
      have hab : a = b := by
        rcases List.mem_cons.1 ((hm a).1 (by simp)) with h1 | h1
        · exact h1
        · rcases List.mem_cons.1 ((hm b).2 (by simp)) with h2 | h2
          · exact h2.symm
          · have := hg'.1 a h1; have := hf'.1 b h2; omega
      subst hab
      have hm' : ∀ i, i ∈ f ↔ i ∈ g := fun i => by
        constructor
        · intro hi
          rcases List.mem_cons.1 ((hm i).1 (List.mem_cons_of_mem _ hi)) with rfl | h1
          · exact absurd (hf'.1 i hi) (Nat.lt_irrefl i)
          · exact h1
        · intro hi
          rcases List.mem_cons.1 ((hm i).2 (List.mem_cons_of_mem _ hi)) with rfl | h1
          · exact absurd (hg'.1 i hi) (Nat.lt_irrefl i)
          · exact h1
      rw [ih hf'.2 hg'.2 (fun i => by
        simp only [FrameBuffer.lit]
        rw [Bool.eq_iff_iff, List.contains_iff_mem, List.contains_iff_mem, hm' i]) hm']

end FrameBuffer

/-! ### Stack cells -/

theorem stackRead_write (l : List Word) (i j : Nat) (v : Word) :
    stackRead (stackWrite l i v) j = if j = i then v else stackRead l j := by
  induction l generalizing i j with
  | nil =>
    induction i generalizing j with
    | zero => cases j <;> simp [stackWrite, stackRead]
    | succ i ih =>
      cases j with
      | zero => simp [stackWrite, stackRead]
      | succ j => simp [stackWrite, stackRead, ih]
  | cons w rest ih =>
    cases i with
    | zero => cases j <;> simp [stackWrite, stackRead]
    | succ i =>
      cases j with
      | zero => simp [stackWrite, stackRead]
      | succ j => simp [stackWrite, stackRead, ih]

theorem length_stackWrite {l : List Word} {i : Nat} (h : i < l.length) (v : Word) :
    (stackWrite l i v).length = l.length := by
  induction l generalizing i with
  | nil => simp at h
  | cons w rest ih =>
    cases i with
    | zero => simp [stackWrite]
    | succ i =>
      simp only [List.length_cons, Nat.add_lt_add_iff_right] at h
      simp [stackWrite, ih h]

end Sys2Proof.Machine
end

