-- ==== Sys2Proof/Laws/Ops.lean ====
section
/-! SUPPORT. One law per shared operation: what it answers and everything it changes. Proofs cite these and do not unfold the
operations. -/

namespace Sys2Proof.Machine

namespace State

variable (s : State)

/-! ### Registers and keys -/

theorem readV_writeV (r q : Reg) (v : Byte) :
    (s.writeV r v).readV q = if q = r then v else s.readV q := by
  simp only [readV, writeV, Vector.get_eq_getElem, Vector.getElem_set, Fin.ext_iff, eq_comm]

@[simp] theorem readV_writeV_same (r : Reg) (v : Byte) : (s.writeV r v).readV r = v := by
  simp [readV_writeV]

theorem readV_writeV_ne {r q : Reg} (v : Byte) (h : q ≠ r) : (s.writeV r v).readV q = s.readV q := by
  simp [readV_writeV, h]

theorem readK_writeK (k q : Key) (p : Bool) :
    (s.writeK k p).readK q = if q = k then p else s.readK q := by
  simp only [readK, writeK, Vector.get_eq_getElem, Vector.getElem_set, Fin.ext_iff, eq_comm]

/-- Two states that agree on every register read hold the same register file. -/
theorem V_ext {s t : State} (h : ∀ r, s.readV r = t.readV r) : s.V = t.V :=
  Vector.ext fun i hi => h ⟨i, hi⟩

/-! ### Memory -/

theorem peek_poke_ne {a b : Nat} (v : Byte) (h : b ≠ a) : (s.poke a v).peek b = s.peek b :=
  Memory.read_write_ne _ _ h

theorem peek_poke_same (hm : rising (s.mem.map Prod.fst) = true) (a : Nat) (v : Byte) :
    (s.poke a v).peek a = v :=
  Memory.read_write_same hm a v

/-- A range write changes memory only. -/
theorem pokeRange_eq (a : Nat) (vs : List Byte) :
    s.pokeRange a vs = { s with mem := (s.pokeRange a vs).mem } := by
  induction vs generalizing s a with
  | nil => rfl
  | cons v vs ih => rw [pokeRange, ih]; rfl

theorem pokeRange_rising (hm : rising (s.mem.map Prod.fst) = true) (a : Nat) (vs : List Byte) :
    rising ((s.pokeRange a vs).mem.map Prod.fst) = true := by
  induction vs generalizing s a with
  | nil => exact hm
  | cons v vs ih => exact ih _ (Memory.rising_write hm a v) _

/-- A range write leaves every byte outside the range alone. -/
theorem peek_pokeRange_outside (a : Nat) (vs : List Byte) {b : Nat} (h : b < a ∨ a + vs.length ≤ b) :
    (s.pokeRange a vs).peek b = s.peek b := by
  induction vs generalizing s a with
  | nil => rfl
  | cons v vs ih =>
    rw [List.length_cons] at h
    rw [pokeRange, ih _ _ (by omega), peek_poke_ne _ _ (by omega)]

/-- Byte `j` of a range write is read back at `a + j`. -/
theorem peek_pokeRange_inside (hm : rising (s.mem.map Prod.fst) = true) (a : Nat) (vs : List Byte) {j : Nat}
    (h : j < vs.length) : (s.pokeRange a vs).peek (a + j) = vs[j] := by
  induction vs generalizing s a j with
  | nil => simp at h
  | cons v vs ih =>
    rw [pokeRange]
    cases j with
    | zero =>
      rw [peek_pokeRange_outside _ _ _ (by omega)]
      simpa using peek_poke_same s hm a v
    | succ j =>
      have := ih (s := s.poke a v) (Memory.rising_write hm a v) (a + 1) (j := j) (by simpa using h)
      simpa [Nat.add_assoc, Nat.add_comm 1 j] using this

theorem pokeRange_wf {s : State} (hm : s.mem.wf s.cfg = true) {a : Nat} {vs : List Byte}
    (h : a + vs.length ≤ s.cfg.memSize) : (s.pokeRange a vs).mem.wf s.cfg = true := by
  induction vs generalizing s a with
  | nil => exact hm
  | cons v vs ih =>
    rw [List.length_cons] at h
    exact ih (s := s.poke a v) (Memory.wf_write hm (by omega) v) (by simp; omega)

theorem length_peekRange (a n : Nat) : (s.peekRange a n).length = n := by
  induction n generalizing a with
  | zero => rfl
  | succ n ih => simp [peekRange, ih]

theorem getElem_peekRange (a n : Nat) {j : Nat} (h : j < (s.peekRange a n).length) :
    (s.peekRange a n)[j] = s.peek (a + j) := by
  induction n generalizing a j with
  | zero => simp [peekRange] at h
  | succ n ih =>
    cases j with
    | zero => simp [peekRange]
    | succ j => simp [peekRange, ih, Nat.add_assoc, Nat.add_comm 1 j]

/-- The range check answers an address exactly when a byte of a nonempty range is at or above `MEM_SIZE`. -/
theorem rangeFault_eq_some {n a : Nat} : s.rangeFault n = some a ↔
    (0 < n ∧ s.cfg.memSize < s.I.toNat + n) ∧ a = max s.I.toNat s.cfg.memSize := by
  unfold rangeFault ea
  split
  · next h => simp only [Option.some.injEq]; constructor
              · rintro rfl; exact ⟨by omega, rfl⟩
              · rintro ⟨-, rfl⟩; rfl
  · next h => simp only [reduceCtorEq, false_iff]; rintro ⟨h1, -⟩; omega

theorem rangeFault_eq_none {n : Nat} : s.rangeFault n = none ↔
    n = 0 ∨ s.I.toNat + n ≤ s.cfg.memSize := by
  unfold rangeFault ea
  split
  · next h => simp only [reduceCtorEq, false_iff]; omega
  · next h => simp only [true_iff]; omega

/-! ### Bulk register transfer -/

/-- A bulk register write changes the register file only. -/
theorem writeRegs_eq (r : Nat) (vs : List Byte) :
    s.writeRegs r vs = { s with V := (s.writeRegs r vs).V } := by
  induction vs generalizing s r with
  | nil => rfl
  | cons v vs ih => rw [writeRegs, ih]; rfl

theorem readV_writeRegs_outside (r : Nat) (vs : List Byte) {q : Reg} (hr : r + vs.length ≤ 16)
    (h : q.val < r ∨ r + vs.length ≤ q.val) : (s.writeRegs r vs).readV q = s.readV q := by
  induction vs generalizing s r with
  | nil => rfl
  | cons v vs ih =>
    rw [List.length_cons] at h hr
    rw [writeRegs, ih _ _ (by omega) (by omega), readV_writeV_ne]
    intro hq
    have := congrArg Fin.val hq
    simp only [Fin.ofNat] at this
    omega

theorem readV_writeRegs_inside (r : Nat) (vs : List Byte) {q : Reg} {j : Nat} (hr : r + vs.length ≤ 16)
    (hj : j < vs.length) (hq : q.val = r + j) : (s.writeRegs r vs).readV q = vs[j] := by
  induction vs generalizing s r j with
  | nil => simp at hj
  | cons v vs ih =>
    rw [List.length_cons] at hr hj
    rw [writeRegs]
    cases j with
    | zero =>
      rw [readV_writeRegs_outside _ _ _ (by omega) (by omega), readV_writeV, if_pos]
      · rfl
      · apply Fin.ext; simp only [Fin.ofNat]; omega
    | succ j => simpa using ih (s := s.writeV _ v) (r + 1) (j := j) (by omega) (by omega) (by omega)

theorem length_readRegs (r n : Nat) : (s.readRegs r n).length = n := by
  induction n generalizing r with
  | zero => rfl
  | succ n ih => simp [readRegs, ih]

theorem getElem_readRegs (r n : Nat) {j : Nat} (h : j < (s.readRegs r n).length) :
    (s.readRegs r n)[j] = s.readV (Fin.ofNat 16 (r + j)) := by
  induction n generalizing r j with
  | zero => simp [readRegs] at h
  | succ n ih =>
    cases j with
    | zero => simp [readRegs]
    | succ j => simp [readRegs, ih, Nat.add_assoc, Nat.add_comm 1 j]

/-! ### Result and flag -/

/-- A result and a flag change the register file only. -/
theorem writeResultFlag_eq (x : Reg) (v : Byte) (f : Bool) :
    s.writeResultFlag x v f = { s with V := (s.writeResultFlag x v f).V } := by
  unfold writeResultFlag; split <;> rfl

/-- What every register reads as after a result and a flag (R23). -/
theorem readV_writeResultFlag (x q : Reg) (v : Byte) (f : Bool) :
    (s.writeResultFlag x v f).readV q =
      if q = Reg.vf ∧ ¬(x = Reg.vf ∧ s.cfg.vfOrder = .resultLast) then flagByte f
      else if q = x then v else s.readV q := by
  unfold writeResultFlag
  split
  · next h =>
    simp only [readV_writeV, h]
    by_cases hq : q = Reg.vf <;> simp [hq]
  · next h =>
    simp only [readV_writeV, h]
    by_cases hq : q = Reg.vf
    · by_cases hx : x = Reg.vf
      · simp [hq, hx]
      · simp [hq, hx, Ne.symm hx]
    · simp [hq]

/-! ### Faults -/

/-- Raising a fault writes the latch only. -/
theorem raise_eq (c : Cause) (info : Nat) :
    s.raise c info = { s with fault := ⟨true, c, BitVec.ofNat 17 info⟩ } := rfl

/-! ### Stack -/

theorem push_full (h : s.sp = s.cfg.stackCap) (v : Word) :
    s.push v = .error (s.raise .stackOverflow v.toNat) := by simp [push, h]

theorem push_ok (h : s.sp ≠ s.cfg.stackCap) (v : Word) :
    s.push v = .ok ((s.writeStack s.sp v).setSp (s.sp + 1)) := by simp [push, h]

theorem pop_empty (h : s.sp = 0) : s.pop = .error (s.raise .stackUnderflow 0) := by simp [pop, h]

theorem pop_ok (h : s.sp ≠ 0) : s.pop = .ok (stackRead s.stack (s.sp - 1), s.setSp (s.sp - 1)) := by
  simp [pop, h]

/-! ### Fetch -/

theorem load16_ok {a : Nat} (h : a + 1 < s.cfg.memSize) :
    s.load16 a = .ok (Word.ofBytes (s.peek a) (s.peek (a + 1))) := by simp [load16, h]

theorem fetch_ok (h : s.pc.toNat + 1 < s.cfg.memSize) :
    s.fetch = .ok (Word.ofBytes (s.peek s.pc.toNat) (s.peek (s.pc.toNat + 1))) := load16_ok s h

theorem fetch_ok_iff {w : Word} : s.fetch = .ok w ↔
    s.pc.toNat + 1 < s.cfg.memSize ∧ w = Word.ofBytes (s.peek s.pc.toNat) (s.peek (s.pc.toNat + 1)) := by
  unfold fetch load16
  split
  · next h => simp [h, eq_comm]
  · next h => simp [h]

theorem fetch_error_iff {a : Nat} : s.fetch = .error a ↔
    s.cfg.memSize ≤ s.pc.toNat + 1 ∧ a = max s.pc.toNat s.cfg.memSize := by
  unfold fetch load16
  split
  · next h => simp; omega
  · next h => split <;> simp <;> omega

end State

/-! ### Drawing -/

theorem pixel_lt {c : Config} (hw : 1 ≤ c.displayW) (hh : 1 ≤ c.displayH) (x y : Nat) :
    State.pixel c x y < c.displayW * c.displayH := by
  have h1 : x % c.displayW < c.displayW := Nat.mod_lt _ hw
  have h2 : y % c.displayH < c.displayH := Nat.mod_lt _ hh
  calc State.pixel c x y < (y % c.displayH) * c.displayW + c.displayW := by unfold State.pixel; omega
    _ = (y % c.displayH + 1) * c.displayW := by ring
    _ ≤ c.displayH * c.displayW := Nat.mul_le_mul_right _ h2
    _ = c.displayW * c.displayH := Nat.mul_comm _ _

/-- The cells of a list of points, in order. -/
def pixelsOf (c : Config) (ps : List (Nat × Nat)) : List Nat := ps.map fun p => State.pixel c p.1 p.2

/-- Whether toggling the cells in order turns one off. -/
def collides : FrameBuffer → List Nat → Bool
  | _, [] => false
  | fb, i :: is => fb.lit i || collides (fb.toggle i) is

theorem drawFold_eq (ps : List (Nat × Nat)) (s : State) (hit : Bool) :
    ps.foldl drawPoint (s, hit) =
      ({ s with fb := (pixelsOf s.cfg ps).foldl FrameBuffer.toggle s.fb, dirty := s.dirty || !ps.isEmpty },
        hit || collides s.fb (pixelsOf s.cfg ps)) := by
  induction ps generalizing s hit with
  | nil => simp [pixelsOf, collides]
  | cons p ps ih =>
    rw [List.foldl_cons, drawPoint, ih]
    simp [pixelsOf, collides, State.fbFlip, State.fbGet, State.setFb, State.setDirty, Bool.or_assoc]

/-- Drawing changes the framebuffer and DIRTY only: every cell under a set bit is toggled in order, DIRTY is set when there
is one, and the answer says whether a cell was turned off. -/
theorem drawPoints_eq (s : State) (ps : List (Nat × Nat)) :
    drawPoints s ps =
      ({ s with fb := (pixelsOf s.cfg ps).foldl FrameBuffer.toggle s.fb, dirty := s.dirty || !ps.isEmpty },
        collides s.fb (pixelsOf s.cfg ps)) := by
  simp [drawPoints, drawFold_eq]

theorem rising_foldl_toggle (is : List Nat) {fb : FrameBuffer} (hf : rising fb = true) :
    rising (is.foldl FrameBuffer.toggle fb) = true := by
  induction is generalizing fb with
  | nil => exact hf
  | cons i is ih => exact ih (FrameBuffer.rising_toggle hf i)

theorem lit_foldl_toggle (is : List Nat) {fb : FrameBuffer} (hf : rising fb = true) (j : Nat) :
    FrameBuffer.lit (is.foldl FrameBuffer.toggle fb) j = (fb.lit j ^^ decide (is.count j % 2 = 1)) := by
  induction is generalizing fb with
  | nil => simp
  | cons i is ih =>
    rw [List.foldl_cons, ih (FrameBuffer.rising_toggle hf i)]
    by_cases hij : j = i
    · subst hij
      rw [FrameBuffer.lit_toggle_same hf, List.count_cons_self]
      rcases Nat.mod_two_eq_zero_or_one (is.count j) with h | h <;>
        simp [h, Nat.add_mod]
    · rw [FrameBuffer.lit_toggle_ne _ hij, List.count_cons_of_ne (Ne.symm hij)]

theorem wf_foldl_toggle {c : Config} (is : List Nat) {fb : FrameBuffer} (hf : fb.wf c = true)
    (hi : ∀ i ∈ is, i < c.displayW * c.displayH) :
    FrameBuffer.wf c (is.foldl FrameBuffer.toggle fb) = true := by
  induction is generalizing fb with
  | nil => exact hf
  | cons i is ih =>
    exact ih (FrameBuffer.wf_toggle hf (hi i (by simp))) fun j hj => hi j (List.mem_cons_of_mem _ hj)

/-- With no cell named twice, a cell is turned off exactly when one of them was set before. -/
theorem collides_of_nodup (is : List Nat) (fb : FrameBuffer) (h : is.Nodup) :
    collides fb is = is.any fb.lit := by
  induction is generalizing fb with
  | nil => rfl
  | cons i is ih =>
    obtain ⟨hi, hn⟩ := List.nodup_cons.1 h
    rw [collides, ih _ hn, List.any_cons]
    congr 1
    have hj : ∀ j ∈ is, FrameBuffer.lit (fb.toggle i) j = fb.lit j := fun j hj =>
      FrameBuffer.lit_toggle_ne _ (fun e => hi (e ▸ hj))
    rw [Bool.eq_iff_iff, List.any_eq_true, List.any_eq_true]
    exact ⟨fun ⟨j, h1, h2⟩ => ⟨j, h1, hj j h1 ▸ h2⟩, fun ⟨j, h1, h2⟩ => ⟨j, h1, (hj j h1).symm ▸ h2⟩⟩

theorem mem_spriteRow {x0 y : Nat} {b : Byte} {p : Nat × Nat} :
    p ∈ spriteRow x0 y b ↔ ∃ c < 8, b.getLsbD (7 - c) = true ∧ p = (x0 + c, y) := by
  simp only [spriteRow, List.mem_map, List.mem_filter, List.mem_range]
  exact ⟨fun ⟨c, ⟨h1, h2⟩, h3⟩ => ⟨c, h1, h2, h3.symm⟩, fun ⟨c, h1, h2, h3⟩ => ⟨c, ⟨h1, h2⟩, h3.symm⟩⟩

theorem mem_spritePoints {x0 y : Nat} {rows : List Byte} {p : Nat × Nat} :
    p ∈ spritePoints x0 y rows ↔
      ∃ r, ∃ h : r < rows.length, ∃ c < 8, rows[r].getLsbD (7 - c) = true ∧ p = (x0 + c, y + r) := by
  induction rows generalizing y with
  | nil => simp [spritePoints]
  | cons b rest ih =>
    rw [spritePoints, List.mem_append, mem_spriteRow, ih]
    constructor
    · rintro (⟨c, hc, hb, rfl⟩ | ⟨r, hr, c, hc, hb, rfl⟩)
      · exact ⟨0, by simp, c, hc, by simpa using hb, by simp⟩
      · exact ⟨r + 1, by simpa using hr, c, hc, by simpa using hb, by simp [Nat.add_assoc, Nat.add_comm 1 r]⟩
    · rintro ⟨r, hr, c, hc, hb, rfl⟩
      cases r with
      | zero => exact .inl ⟨c, hc, by simpa using hb, by simp⟩
      | succ r =>
        exact .inr ⟨r, by simpa using hr, c, hc, by simpa using hb, by simp [Nat.add_assoc, Nat.add_comm 1 r]⟩

end Sys2Proof.Machine
end

