-- ==== Sys2Proof/Laws/PerInstr.lean ====
section
/-! SUPPORT. The per-instruction family OpcodeRow: the word of every instruction holds the fixed digits of its row of the opcode
map (30_encoding.md R94). -/

namespace Sys2Proof.Laws.OpcodeRow

/-- The instruction's word agrees with its row's match under its row's mask. -/
def Statement (i : Instr) : Prop := encode i &&& opcodeMask i = opcodeMatch i

theorem cls : Statement .cls :=
  (by decide : encode .cls &&& opcodeMask .cls = opcodeMatch .cls)
theorem ret : Statement .ret :=
  (by decide : encode .ret &&& opcodeMask .ret = opcodeMatch .ret)
theorem sys (nnn : Addr12) : Statement (.sys nnn) := wordNNN_and_F000 0x0 nnn
theorem jp (nnn : Addr12) : Statement (.jp nnn) := wordNNN_and_F000 0x1 nnn
theorem call (nnn : Addr12) : Statement (.call nnn) := wordNNN_and_F000 0x2 nnn
theorem seVxNn (x : Reg) (nn : Byte) : Statement (.seVxNn x nn) := wordXNN_and_F000 0x3 x nn
theorem sneVxNn (x : Reg) (nn : Byte) : Statement (.sneVxNn x nn) := wordXNN_and_F000 0x4 x nn
theorem seVxVy (x y : Reg) : Statement (.seVxVy x y) := wordXYN_and_F00F 0x5 x y 0x0
theorem ldVxNn (x : Reg) (nn : Byte) : Statement (.ldVxNn x nn) := wordXNN_and_F000 0x6 x nn
theorem addVxNn (x : Reg) (nn : Byte) : Statement (.addVxNn x nn) := wordXNN_and_F000 0x7 x nn
theorem ldVxVy (x y : Reg) : Statement (.ldVxVy x y) := wordXYN_and_F00F 0x8 x y 0x0
theorem or (x y : Reg) : Statement (.or x y) := wordXYN_and_F00F 0x8 x y 0x1
theorem and (x y : Reg) : Statement (.and x y) := wordXYN_and_F00F 0x8 x y 0x2
theorem xor (x y : Reg) : Statement (.xor x y) := wordXYN_and_F00F 0x8 x y 0x3
theorem addVxVy (x y : Reg) : Statement (.addVxVy x y) := wordXYN_and_F00F 0x8 x y 0x4
theorem sub (x y : Reg) : Statement (.sub x y) := wordXYN_and_F00F 0x8 x y 0x5
theorem shr (x y : Reg) : Statement (.shr x y) := wordXYN_and_F00F 0x8 x y 0x6
theorem subn (x y : Reg) : Statement (.subn x y) := wordXYN_and_F00F 0x8 x y 0x7
theorem shl (x y : Reg) : Statement (.shl x y) := wordXYN_and_F00F 0x8 x y 0xE
theorem sneVxVy (x y : Reg) : Statement (.sneVxVy x y) := wordXYN_and_F00F 0x9 x y 0x0
theorem ldINnn (nnn : Addr12) : Statement (.ldINnn nnn) := wordNNN_and_F000 0xA nnn
theorem jpV0 (nnn : Addr12) : Statement (.jpV0 nnn) := wordNNN_and_F000 0xB nnn
theorem rnd (x : Reg) (nn : Byte) : Statement (.rnd x nn) := wordXNN_and_F000 0xC x nn
theorem drw (x y : Reg) (n : Nibble) : Statement (.drw x y n) := wordXYN_and_F000 0xD x y n
theorem skp (x : Reg) : Statement (.skp x) := wordXNN_and_F0FF 0xE x 0x9E
theorem sknp (x : Reg) : Statement (.sknp x) := wordXNN_and_F0FF 0xE x 0xA1
theorem ldVxDt (x : Reg) : Statement (.ldVxDt x) := wordXNN_and_F0FF 0xF x 0x07
theorem ldVxK (x : Reg) : Statement (.ldVxK x) := wordXNN_and_F0FF 0xF x 0x0A
theorem ldDtVx (x : Reg) : Statement (.ldDtVx x) := wordXNN_and_F0FF 0xF x 0x15
theorem ldStVx (x : Reg) : Statement (.ldStVx x) := wordXNN_and_F0FF 0xF x 0x18
theorem addIVx (x : Reg) : Statement (.addIVx x) := wordXNN_and_F0FF 0xF x 0x1E
theorem ldFVx (x : Reg) : Statement (.ldFVx x) := wordXNN_and_F0FF 0xF x 0x29
theorem ldBVx (x : Reg) : Statement (.ldBVx x) := wordXNN_and_F0FF 0xF x 0x33
theorem ldMiVx (x : Reg) : Statement (.ldMiVx x) := wordXNN_and_F0FF 0xF x 0x55
theorem ldVxMi (x : Reg) : Statement (.ldVxMi x) := wordXNN_and_F0FF 0xF x 0x65

end Sys2Proof.Laws.OpcodeRow
end

