-- ==== Sys2Proof/Laws/Premises.lean ====
section
/-! SUPPORT. Laws of the host premises (70_reset_and_hazards.md R306): how they read a schedule event by event, and that they
leave `rnd`, KeyEvents and ticks free (R306 (d) to (f)). -/

namespace Sys2Proof.Machine

@[simp] theorem romLoads_nil : romLoads [] = [] := rfl
@[simp] theorem romLoads_reset (es : List Event) : romLoads (.reset :: es) = romLoads es := rfl
@[simp] theorem romLoads_romLoad (b : List Byte) (es : List Event) :
    romLoads (.romLoad b :: es) = b :: romLoads es := rfl
@[simp] theorem romLoads_cycle (r : Byte) (es : List Event) : romLoads (.cycle r :: es) = romLoads es := rfl
@[simp] theorem romLoads_delayTick (es : List Event) : romLoads (.delayTick :: es) = romLoads es := rfl
@[simp] theorem romLoads_soundTick (es : List Event) : romLoads (.soundTick :: es) = romLoads es := rfl
@[simp] theorem romLoads_keyEvent (k : Key) (p : Bool) (es : List Event) :
    romLoads (.keyEvent k p :: es) = romLoads es := rfl

@[simp] theorem romLoads_append (es fs : List Event) : romLoads (es ++ fs) = romLoads es ++ romLoads fs :=
  List.filterMap_append ..

/-- A schedule's first Cycle is where its Cycle-free part ends. -/
theorem fromFirstCycle_append_cycle {pre : List Event} (h : ∀ e ∈ pre, e.isCycle = false) (r : Byte)
    (post : List Event) : fromFirstCycle (pre ++ .cycle r :: post) = .cycle r :: post := by
  induction pre with
  | nil => rfl
  | cons e es ih =>
    simp only [fromFirstCycle, List.cons_append, List.dropWhile_cons, h e (by simp), Bool.not_false, if_true]
    exact ih fun e he => h e (by simp [he])

theorem fromFirstCycle_cons_of_not {e : Event} (h : e.isCycle = false) (es : List Event) :
    fromFirstCycle (e :: es) = fromFirstCycle es := by simp [fromFirstCycle, h]

theorem fromFirstCycle_cons_of {e : Event} (h : e.isCycle = true) (es : List Event) :
    fromFirstCycle (e :: es) = e :: es := by simp [fromFirstCycle, h]

/-- An event that the premises leave free: a tick or a KeyEvent (R306 (e), (f)). -/
def Event.IsFree (e : Event) : Prop := e = .delayTick ∨ e = .soundTick ∨ ∃ k p, e = .keyEvent k p

/-- An event in the middle of a schedule may be left out, as far as the ROMs loaded while running go, when it is no Cycle and
loads none. -/
theorem romLoads_fromFirstCycle_insert {e : Event} (hc : e.isCycle = false) (hr : e.rom = none)
    (pre post : List Event) :
    romLoads (fromFirstCycle (pre ++ e :: post)) = romLoads (fromFirstCycle (pre ++ post)) := by
  induction pre with
  | nil => simp [fromFirstCycle_cons_of_not hc]
  | cons d ds ih =>
    cases hd : d.isCycle with
    | false => simpa [fromFirstCycle_cons_of_not hd] using ih
    | true => simp [fromFirstCycle_cons_of hd, romLoads, hr, List.filterMap_append, List.filterMap_cons]

/-- R306 (e), (f): a KeyEvent or a tick may come anywhere after the Reset, any number of times. -/
theorem hostPremises_insert_free (c : Config) {pre : List Event} (hp : pre ≠ []) {e : Event} (he : e.IsFree)
    (post : List Event) : HostPremises c (pre ++ e :: post) ↔ HostPremises c (pre ++ post) := by
  have h : e.isCycle = false ∧ e.rom = none ∧ e ≠ .reset := by
    rcases he with rfl | rfl | ⟨k, p, rfl⟩ <;> exact ⟨rfl, rfl, by simp⟩
  have hl : romLoads (pre ++ e :: post) = romLoads (pre ++ post) := by
    simp [romLoads, List.filterMap_append, h.2.1]
  have hh : (pre ++ e :: post).head? = (pre ++ post).head? := by
    cases pre with
    | nil => exact absurd rfl hp
    | cons => rfl
  have hn : (pre ++ e :: post).count .reset = (pre ++ post).count .reset := by
    simp [h.2.2]
  simp only [HostPremises, OneResetFirst, OneAcceptedRomLoad, NoRomLoadWhileRunning, hl, hh, hn,
    romLoads_fromFirstCycle_insert h.1 h.2.1]

/-- R306 (d): any Cycle of a schedule may have any `rnd`. -/
theorem hostPremises_rnd (c : Config) (pre post : List Event) (r q : Byte) :
    HostPremises c (pre ++ .cycle r :: post) ↔ HostPremises c (pre ++ .cycle q :: post) := by
  have hf : romLoads (fromFirstCycle (pre ++ .cycle r :: post)) =
      romLoads (fromFirstCycle (pre ++ .cycle q :: post)) := by
    induction pre with
    | nil => rfl
    | cons d ds ih =>
      cases hd : d.isCycle with
      | false => simpa [fromFirstCycle_cons_of_not hd] using ih
      | true => simp [fromFirstCycle_cons_of hd, romLoads, List.filterMap_append, List.filterMap_cons, Event.rom]
  have hh : (pre ++ .cycle r :: post).head? = some .reset ↔ (pre ++ .cycle q :: post).head? = some .reset := by
    cases pre <;> simp
  have hn : (pre ++ .cycle r :: post).count .reset = (pre ++ .cycle q :: post).count .reset := by
    simp
  simp only [HostPremises, OneResetFirst, OneAcceptedRomLoad, NoRomLoadWhileRunning, romLoads_append, romLoads_cycle,
    hf, hh, hn]

end Sys2Proof.Machine
end

