-- ==== Sys2Proof/Laws/Step.lean ====
section
/-! SUPPORT. What one Cycle and one step can do, said once (10_state.md R48, R49). Proofs about steps cite these and do not
unfold `step` or `cycle`. -/

namespace Sys2Proof.Machine

variable {s t : State}

/-! ### The Cycle event -/

/-- A Cycle while faulted or AwaitingKey changes nothing. -/
theorem cycle_ignored (h : s.fault.valid = true ∨ s.wait.valid = true) : s.cycle = .next s := by
  unfold State.cycle
  rcases h with h | h <;> simp [h]

theorem cycle_running (h : Running s) : s.cycle = s.runCycle := by
  simp [State.cycle, h.1, h.2]

/-- A Cycle that fetches and decodes runs the instruction with DIRTY cleared. -/
theorem cycle_exec {w : Word} {i : Instr} (h : Running s) (hf : s.fetch = .ok w) (hd : decode w = .ok i) :
    s.cycle = exec i (s.setDirty false) := by
  have e : (s.setDirty false).fetch = .ok w := hf
  simp [cycle_running h, State.runCycle, e, hd]

/-- A Cycle whose fetch is out of range latches `OutOfBounds`. -/
theorem cycle_fetch_fault {a : Nat} (h : Running s) (hf : s.fetch = .error a) :
    s.cycle = .next ((s.setDirty false).raise .outOfBounds a) := by
  have e : (s.setDirty false).fetch = .error a := hf
  simp [cycle_running h, State.runCycle, e]

/-- A Cycle whose word selects nothing latches `BadInstruction`. -/
theorem cycle_decode_fault {w : Word} {r : Reject} (h : Running s) (hf : s.fetch = .ok w)
    (hd : decode w = .error r) :
    s.cycle = .next ((s.setDirty false).raise .badInstruction w.toNat) := by
  have e : (s.setDirty false).fetch = .ok w := hf
  simp [cycle_running h, State.runCycle, e, hd]

/-- Everything a Cycle can do. -/
theorem cycle_cases (h : s.cycle = .next t) :
    (t = s ∧ (s.fault.valid = true ∨ s.wait.valid = true)) ∨
    (Running s ∧
      ((∃ a, s.fetch = .error a ∧ t = (s.setDirty false).raise .outOfBounds a) ∨
       (∃ w r, s.fetch = .ok w ∧ decode w = .error r ∧ t = (s.setDirty false).raise .badInstruction w.toNat) ∨
       (∃ w i, s.fetch = .ok w ∧ decode w = .ok i ∧ exec i (s.setDirty false) = .next t))) := by
  by_cases hi : s.fault.valid = true ∨ s.wait.valid = true
  · rw [cycle_ignored hi] at h
    injection h with h
    exact .inl ⟨h.symm, hi⟩
  · have hr : Running s := by simpa [Running] using hi
    refine .inr ⟨hr, ?_⟩
    cases hf : s.fetch with
    | error a =>
      rw [cycle_fetch_fault hr hf] at h
      injection h with h
      exact .inl ⟨a, rfl, h.symm⟩
    | ok w =>
      cases hd : decode w with
      | error r =>
        rw [cycle_decode_fault hr hf hd] at h
        injection h with h
        exact .inr (.inl ⟨w, r, rfl, hd, h.symm⟩)
      | ok i => exact .inr (.inr ⟨w, i, rfl, hd, (cycle_exec hr hf hd).symm.trans h⟩)

/-! ### One step -/

/-- With no event listed, the step is a Cycle with a free `rnd`. -/
theorem step_free (h : s.inbox = []) :
    step s = (((s.setOut none).setRndIn none).setDraws (s.draws + 1)).cycle := by
  simp [step, State.nextEvent, h, State.freeCycle]

/-- With events listed, the step delivers the first and keeps the rest. -/
theorem step_deliver {e : Event} {es : List Event} (h : s.inbox = e :: es) :
    step s = ((s.setOut none).setInbox es).deliver e := by
  simp [step, State.nextEvent, h]

/-- A step that takes a Cycle, listed or not, is that Cycle. -/
theorem step_takesCycle {u : State} (h : TakesCycle s u) : step s = u.cycle := by
  obtain ⟨hi, rfl⟩ | ⟨r, es, hi, rfl⟩ := h
  · exact step_free hi
  · exact step_deliver hi

/-- Everything a step can do, by the event it delivers. -/
theorem step_cases (h : step s = .next t) :
    (s.inbox = [] ∧ (((s.setOut none).setRndIn none).setDraws (s.draws + 1)).cycle = .next t) ∨
    (∃ r es, s.inbox = .cycle r :: es ∧ (((s.setOut none).setInbox es).setRndIn (some r)).cycle = .next t) ∨
    (∃ es, s.inbox = .reset :: es ∧ t = ((s.setOut none).setInbox es).resetEvent) ∨
    (∃ b es, s.inbox = .romLoad b :: es ∧ t = ((s.setOut none).setInbox es).romLoad b) ∨
    (∃ es, s.inbox = .delayTick :: es ∧ t = ((s.setOut none).setInbox es).delayTick) ∨
    (∃ es, s.inbox = .soundTick :: es ∧ t = ((s.setOut none).setInbox es).soundTick) ∨
    (∃ k p es, s.inbox = .keyEvent k p :: es ∧ t = ((s.setOut none).setInbox es).keyEvent k p) := by
  cases hi : s.inbox with
  | nil => exact .inl ⟨rfl, (step_free hi).symm.trans h⟩
  | cons e es =>
    rw [step_deliver hi] at h
    cases e with
    | cycle r => exact .inr (.inl ⟨r, es, rfl, h⟩)
    | reset => injection h with h; exact .inr (.inr (.inl ⟨es, rfl, h.symm⟩))
    | romLoad b => injection h with h; exact .inr (.inr (.inr (.inl ⟨b, es, rfl, h.symm⟩)))
    | delayTick => injection h with h; exact .inr (.inr (.inr (.inr (.inl ⟨es, rfl, h.symm⟩))))
    | soundTick => injection h with h; exact .inr (.inr (.inr (.inr (.inr (.inl ⟨es, rfl, h.symm⟩)))))
    | keyEvent k p => injection h with h; exact .inr (.inr (.inr (.inr (.inr (.inr ⟨k, p, es, rfl, h.symm⟩)))))

/-! ### What the other events change -/

namespace State

variable (s : State)

/-- A DelayTick writes DT and the output only. -/
theorem delayTick_eq : s.delayTick = { s with DT := s.delayTick.DT, out := s.delayTick.out } := by
  unfold delayTick; split_ifs <;> rfl

/-- A SoundTick writes ST and the output only. -/
theorem soundTick_eq : s.soundTick = { s with ST := s.soundTick.ST, out := s.soundTick.out } := by
  unfold soundTick; split_ifs <;> rfl

/-- A KeyEvent writes K, and V and WAIT when it wakes. -/
theorem keyEvent_eq (k : Key) (p : Bool) :
    s.keyEvent k p = { s with K := (s.keyEvent k p).K, V := (s.keyEvent k p).V, wait := (s.keyEvent k p).wait } := by
  simp only [keyEvent]; split_ifs <;> rfl

/-- A RomLoad writes memory, or the output when it is refused. -/
theorem romLoad_eq (bytes : List Byte) :
    s.romLoad bytes = { s with mem := (s.romLoad bytes).mem, out := (s.romLoad bytes).out } := by
  unfold romLoad
  split
  · rfl
  · rw [pokeRange_eq]

end State

end Sys2Proof.Machine
end

