-- ==== Sys2Proof/Tests/Slice0.lean ====
section
/-! SUPPORT. The model's own tests. Words are written out bit by bit from the opcode map (30_encoding.md R94); expected
results are the vectors T-… of spec/95_test_vectors.md, named in each docstring. The last part shows, for every statement with
hypotheses, a state and operands that meet them. -/

namespace Sys2Proof.Tests

open Sys2Proof Sys2Proof.Machine

/-! ### WellFormed -/

/-- R98: the two words 0NNN that are no SYS are refused. -/
theorem test_wf_refuses_sys_0E0 : (Instr.sys 0x0E0#12).wf = false := by decide
theorem test_wf_refuses_sys_0EE : (Instr.sys 0x0EE#12).wf = false := by decide
theorem test_wf_accepts_sys_000 : (Instr.sys 0x000#12).wf = true := by decide

/-! ### Decoding, one word a row of the opcode map -/

theorem test_decode_cls : decode 0b0000_0000_1110_0000#16 = .ok .cls := by decide
theorem test_decode_ret : decode 0b0000_0000_1110_1110#16 = .ok .ret := by decide
theorem test_decode_sys : decode 0b0000_0001_0010_0011#16 = .ok (.sys 0x123) := by decide
theorem test_decode_jp : decode 0b0001_0010_0011_0100#16 = .ok (.jp 0x234) := by decide
theorem test_decode_call : decode 0b0010_0011_0000_0001#16 = .ok (.call 0x301) := by decide
theorem test_decode_seVxNn : decode 0b0011_1010_0001_0100#16 = .ok (.seVxNn 0xA 0x14) := by decide
theorem test_decode_sneVxNn : decode 0b0100_0001_1000_0001#16 = .ok (.sneVxNn 0x1 0x81) := by decide
theorem test_decode_seVxVy : decode 0b0101_0001_0010_0000#16 = .ok (.seVxVy 1 2) := by decide
theorem test_decode_ldVxNn : decode 0b0110_0000_0000_1010#16 = .ok (.ldVxNn 0 0x0A) := by decide
theorem test_decode_addVxNn : decode 0b0111_1100_0000_0101#16 = .ok (.addVxNn 0xC 0x05) := by decide
theorem test_decode_ldVxVy : decode 0b1000_0001_0010_0000#16 = .ok (.ldVxVy 1 2) := by decide
theorem test_decode_or : decode 0b1000_0001_0010_0001#16 = .ok (.or 1 2) := by decide
theorem test_decode_and : decode 0b1000_0001_0010_0010#16 = .ok (.and 1 2) := by decide
theorem test_decode_xor : decode 0b1000_0001_0010_0011#16 = .ok (.xor 1 2) := by decide
theorem test_decode_addVxVy : decode 0b1000_0001_0010_0100#16 = .ok (.addVxVy 1 2) := by decide
theorem test_decode_sub : decode 0b1000_0001_0010_0101#16 = .ok (.sub 1 2) := by decide
theorem test_decode_shr : decode 0b1000_0001_0010_0110#16 = .ok (.shr 1 2) := by decide
theorem test_decode_subn : decode 0b1000_0001_0010_0111#16 = .ok (.subn 1 2) := by decide
theorem test_decode_shl : decode 0b1000_0001_0010_1110#16 = .ok (.shl 1 2) := by decide
theorem test_decode_sneVxVy : decode 0b1001_0001_0010_0000#16 = .ok (.sneVxVy 1 2) := by decide
theorem test_decode_ldINnn : decode 0b1010_0010_1111_0000#16 = .ok (.ldINnn 0x2F0) := by decide
theorem test_decode_jpV0 : decode 0b1011_0011_0000_0001#16 = .ok (.jpV0 0x301) := by decide
theorem test_decode_rnd : decode 0b1100_0001_0000_1111#16 = .ok (.rnd 1 0x0F) := by decide
theorem test_decode_drw : decode 0b1101_0001_0010_0101#16 = .ok (.drw 1 2 5) := by decide
theorem test_decode_skp : decode 0b1110_0010_1001_1110#16 = .ok (.skp 2) := by decide
theorem test_decode_sknp : decode 0b1110_0010_1010_0001#16 = .ok (.sknp 2) := by decide
theorem test_decode_ldVxDt : decode 0b1111_0011_0000_0111#16 = .ok (.ldVxDt 3) := by decide
theorem test_decode_ldVxK : decode 0b1111_0011_0000_1010#16 = .ok (.ldVxK 3) := by decide
theorem test_decode_ldDtVx : decode 0b1111_0011_0001_0101#16 = .ok (.ldDtVx 3) := by decide
theorem test_decode_ldStVx : decode 0b1111_0011_0001_1000#16 = .ok (.ldStVx 3) := by decide
theorem test_decode_addIVx : decode 0b1111_0010_0001_1110#16 = .ok (.addIVx 2) := by decide
theorem test_decode_ldFVx : decode 0b1111_0011_0010_1001#16 = .ok (.ldFVx 3) := by decide
theorem test_decode_ldBVx : decode 0b1111_0100_0011_0011#16 = .ok (.ldBVx 4) := by decide
theorem test_decode_ldMiVx : decode 0b1111_0010_0101_0101#16 = .ok (.ldMiVx 2) := by decide
theorem test_decode_ldVxMi : decode 0b1111_0010_0110_0101#16 = .ok (.ldVxMi 2) := by decide

/-- One word of each illegal class (R97; T-SER-4, T-ALU-ILL-2, T-SNER-4, T-KEY-ILL, T-IDX-ILL-2). -/
theorem test_decode_rejects :
    decode 0x5121#16 = .error (.badInstruction 0x5121) ∧ decode 0x812F#16 = .error (.badInstruction 0x812F) ∧
    decode 0x9121#16 = .error (.badInstruction 0x9121) ∧ decode 0xE29F#16 = .error (.badInstruction 0xE29F) ∧
    decode 0xFF75#16 = .error (.badInstruction 0xFF75) := by decide

/-- R67: the first byte in memory is the high byte (source example S2). -/
theorem test_decode_big_endian :
    decodeBytes [0x60, 0x0A, 0x70, 0x05] = .ok (.ldVxNn 0 0x0A, [0x70, 0x05]) ∧
    decodeTableWord 16 0x600A = some (.ldVxNn 0 0x0A) ∧ decodeBytes [0x60] = .error .truncated := by decide

/-! ### One Cycle on a small state -/

/-- The next state, where there is one. -/
def after (o : Host.Outcome State Fault Refusal) : Option State :=
  match o with
  | .next t => some t
  | .fault _ => none
  | .refused _ => none

/-- The state after Reset with some data registers set. -/
def regs (vs : List (Reg × Byte)) : State := vs.foldl (fun s p => s.writeV p.1 p.2) State.reset

/-- One Cycle with input `rnd` on the word `w` at pc. -/
def cycleOn (w : Nat) (s : State) (rnd : Byte := 0) : Option State :=
  after (step ((s.withFetchWord 16 w).setInbox [.cycle rnd]))

/-- One event. -/
def event (e : Event) (s : State) : Option State := after (step (s.setInbox [e]))

/-- What a fault vector shows: cause, info, pc. -/
def faultView (t : State) : Cause × BitVec 17 × Word := (t.fault.cause, t.fault.info, t.pc)

/-- T-RET-1, T-RET-2. -/
theorem test_ret : (cycleOn 0x00EE (((State.reset.writeStack 0 0x204).setSp 1).setPc 0x300)).map
    (fun t => (t.pc, t.sp, stackRead t.stack 0)) = some (0x206, 0, 0x204) := by decide
theorem test_ret_empty : (cycleOn 0x00EE (State.reset.setPc 0x300)).map faultView =
    some (.stackUnderflow, 0, 0x300) := by decide
/-- T-SYS-3. -/
theorem test_sys : (cycleOn 0x00E1 State.reset).map (fun t => (t.pc, t.dirty)) = some (0x202, false) := by decide
/-- T-JP-1, T-JP-2. -/
theorem test_jp : (cycleOn 0x1234 State.reset).map (·.pc) = some 0x234 := by decide
theorem test_jp_zero : (cycleOn 0x1000 State.reset).map (·.pc) = some 0 := by decide
/-- T-CALL-3, T-CALL-2. -/
theorem test_call : (cycleOn 0x2300 ((State.reset.setSp 15).setPc 0x204)).map
    (fun t => (t.pc, t.sp, stackRead t.stack 15)) = some (0x300, 16, 0x204) := by decide
theorem test_call_full : (cycleOn 0x2300 ((State.reset.setSp 16).setPc 0x204)).map faultView =
    some (.stackOverflow, 516, 0x204) := by decide
/-- T-JPV0-2, T-JPV0-3. -/
theorem test_jpV0 : (cycleOn 0xBFFF (regs [(0, 0xFF)])).map (·.pc) = some 0x10FE := by decide
theorem test_jpV0_not_x : (cycleOn 0xB300 (regs [(3, 0x55)])).map (·.pc) = some 0x300 := by decide
/-- T-SE-1, T-SE-2. -/
theorem test_seVxNn_taken : (cycleOn 0x3014 (regs [(0, 0x14)])).map (·.pc) = some 0x204 := by decide
theorem test_seVxNn_not_taken : (cycleOn 0x3014 (regs [(0, 0x15)])).map (·.pc) = some 0x202 := by decide
/-- T-SNE-1, T-SNE-2. -/
theorem test_sneVxNn_taken : (cycleOn 0x4101 (regs [])).map (·.pc) = some 0x204 := by decide
theorem test_sneVxNn_not_taken : (cycleOn 0x4101 (regs [(1, 1)])).map (·.pc) = some 0x202 := by decide
/-- T-SER-1, T-SER-2. -/
theorem test_seVxVy_taken : (cycleOn 0x5120 (regs [(1, 0x7F), (2, 0x7F)])).map (·.pc) = some 0x204 := by decide
theorem test_seVxVy_not_taken : (cycleOn 0x5120 (regs [(1, 1), (2, 2)])).map (·.pc) = some 0x202 := by decide
/-- T-SNER-1, T-SNER-2. -/
theorem test_sneVxVy_taken : (cycleOn 0x9120 (regs [(1, 1), (2, 2)])).map (·.pc) = some 0x204 := by decide
theorem test_sneVxVy_not_taken : (cycleOn 0x9120 (regs [(1, 0x7F), (2, 0x7F)])).map (·.pc) = some 0x202 := by decide
/-- T-LD-1, T-LD-2. -/
theorem test_ldVxNn : (cycleOn 0x600A (regs [])).map (fun t => (t.pc, t.readV 0)) = some (0x202, 0x0A) := by decide
theorem test_ldVxNn_vf : (cycleOn 0x6FFF (regs [])).map (·.readV Reg.vf) = some 0xFF := by decide
/-- T-ADDI-2. -/
theorem test_addVxNn_wraps : (cycleOn 0x7101 (regs [(1, 0xFF), (0xF, 7)])).map
    (fun t => (t.readV 1, t.readV Reg.vf)) = some (0, 7) := by decide
/-- T-MOV-1. -/
theorem test_ldVxVy : (cycleOn 0x8120 (regs [(2, 0x5A)])).map (fun t => (t.readV 1, t.readV 2)) =
    some (0x5A, 0x5A) := by decide
/-- T-OR-1, T-AND-1, T-XOR-1. -/
theorem test_or : (cycleOn 0x8121 (regs [(1, 0xF0), (2, 0x0F), (0xF, 9)])).map
    (fun t => (t.readV 1, t.readV Reg.vf)) = some (0xFF, 9) := by decide
theorem test_and : (cycleOn 0x8122 (regs [(1, 0xF0), (2, 0x3C)])).map (·.readV 1) = some 0x30 := by decide
theorem test_xor : (cycleOn 0x8123 (regs [(1, 0xF0), (2, 0x3C)])).map (·.readV 1) = some 0xCC := by decide
/-- T-ADD-2, T-ADD-5. -/
theorem test_addVxVy : (cycleOn 0x8124 (regs [(1, 0xFF), (2, 0xFF)])).map
    (fun t => (t.readV 1, t.readV Reg.vf)) = some (0xFE, 1) := by decide
theorem test_addVxVy_into_vf : (cycleOn 0x8F14 (regs [(0xF, 0xF0), (1, 0x20)])).map (·.readV Reg.vf) = some 1 := by
  decide
/-- T-SUB-2, T-SUB-3. -/
theorem test_sub_borrow : (cycleOn 0x8125 (regs [(1, 5), (2, 7)])).map
    (fun t => (t.readV 1, t.readV Reg.vf)) = some (0xFE, 0) := by decide
theorem test_sub_equal : (cycleOn 0x8125 (regs [(1, 5), (2, 5)])).map
    (fun t => (t.readV 1, t.readV Reg.vf)) = some (0, 1) := by decide
/-- T-SHR-7, T-SHR-8. -/
theorem test_shr_vx : (cycleOn 0x8126 (regs [(1, 5), (2, 0x0A)])).map
    (fun t => (t.readV 1, t.readV 2, t.readV Reg.vf)) = some (2, 0x0A, 1) := by decide
theorem test_shr_vy : (cycleOn 0x8126 { regs [(1, 5), (2, 0x0A)] with cfg := { Config.std with shiftSrc := .vy } }).map
    (fun t => (t.readV 1, t.readV 2, t.readV Reg.vf)) = some (5, 0x0A, 0) := by decide
/-- T-SUBN-1, T-SUBN-2. -/
theorem test_subn_borrow : (cycleOn 0x8127 (regs [(1, 7), (2, 5)])).map
    (fun t => (t.readV 1, t.readV Reg.vf)) = some (0xFE, 0) := by decide
theorem test_subn : (cycleOn 0x8127 (regs [(1, 5), (2, 7)])).map
    (fun t => (t.readV 1, t.readV Reg.vf)) = some (2, 1) := by decide
/-- T-SHL-1, and T-SHL-6 with `VF_ORDER = result_last`. -/
theorem test_shl : (cycleOn 0x811E (regs [(1, 0x81)])).map
    (fun t => (t.readV 1, t.readV Reg.vf)) = some (2, 1) := by decide
theorem test_shl_result_last :
    (cycleOn 0x8FFE { regs [(0xF, 0x41)] with cfg := { Config.std with vfOrder := .resultLast } }).map
    (·.readV Reg.vf) = some 0x82 := by decide
/-- T-LDI-2. -/
theorem test_ldINnn : (cycleOn 0xAFFF (regs [])).map (fun t => (t.I, t.pc)) = some (0xFFF, 0x202) := by decide
/-- T-RND-1, T-RND-3. -/
theorem test_rnd : (cycleOn 0xC10F (regs []) 0xA7).map (·.readV 1) = some 7 := by decide
theorem test_rnd_zero_mask : (cycleOn 0xC100 (regs [(1, 0x55)]) 0xFF).map (·.readV 1) = some 0 := by decide
/-- T-CLS-1. -/
theorem test_cls : (cycleOn 0x00E0 ((regs []).setFb [0, 2047])).map (fun t => (t.fb, t.dirty, t.pc)) =
    some ([], true, 0x202) := by decide
/-- T-DRW-1: pixels (62,0) (0,31) (1,31) (62,31) (63,31). T-DRW-7. -/
theorem test_drw_wraps :
    (cycleOn 0xD012 (((regs [(0, 62), (1, 31)]).pokeRange 0x300 [0xF0, 0x80]).setI 0x300)).map
    (fun t => (t.fb, t.readV Reg.vf, t.dirty)) = some ([62, 1984, 1985, 2046, 2047], 0, true) := by decide
theorem test_drw_out_of_range :
    (cycleOn 0xD012 (((regs [(0xF, 1)]).poke 0xFFF 0xFF).setI 0xFFF)).map
    (fun t => (faultView t, t.fb, t.readV Reg.vf)) = some ((.outOfBounds, 4096, 0x200), [], 1) := by decide
/-- T-SKP-1, T-SKP-3. -/
theorem test_skp : (cycleOn 0xE29E ((regs [(2, 5)]).writeK 5 true)).map (·.pc) = some 0x204 := by decide
theorem test_skp_no_key : (cycleOn 0xE29E (regs [(2, 0x10)])).map faultView =
    some (.keyOutOfBounds, 16, 0x200) := by decide
/-- T-SKNP-1, T-SKNP-2. -/
theorem test_sknp : (cycleOn 0xE2A1 (regs [(2, 5)])).map (·.pc) = some 0x204 := by decide
theorem test_sknp_pressed : (cycleOn 0xE2A1 ((regs [(2, 5)]).writeK 5 true)).map (·.pc) = some 0x202 := by decide
/-- T-TMR-1. -/
theorem test_ldVxDt : (cycleOn 0xF307 ((regs []).setDT 0x3C)).map (fun t => (t.readV 3, t.DT)) =
    some (0x3C, 0x3C) := by decide
/-- T-WAIT-1. -/
theorem test_ldVxK : (cycleOn 0xFF0A (regs [])).map (fun t => (t.wait, t.pc, t.readV Reg.vf)) =
    some (⟨true, 15⟩, 0x202, 0) := by decide
/-- T-TMR-2, T-TMR-3. -/
theorem test_ldDtVx : (cycleOn 0xF315 (regs [(3, 0x3C)])).map (fun t => (t.DT, t.ST, t.pc)) =
    some (0x3C, 0, 0x202) := by decide
theorem test_ldStVx : (cycleOn 0xF318 (regs [(3, 2)])).map (fun t => (t.ST, t.DT, t.pc)) = some (2, 0, 0x202) := by
  decide
/-- T-ADDI2-3, T-ADDI2-8. -/
theorem test_addIVx : (cycleOn 0xF21E ((regs [(2, 1)]).setI 0xFFF)).map (fun t => (t.I, t.readV Reg.vf)) =
    some (0x1000, 1) := by decide
theorem test_addIVx_vf : (cycleOn 0xFF1E ((regs [(0xF, 1)]).setI 0xFFE)).map (fun t => (t.I, t.readV Reg.vf)) =
    some (0xFFF, 0) := by decide
/-- T-FONT-5. -/
theorem test_ldFVx : (cycleOn 0xF329 (regs [(3, 0xFF)])).map (·.I) = some 0x4FB := by decide
/-- T-BCD-7, T-BCD-11. -/
theorem test_ldBVx : (cycleOn 0xF433 ((regs [(4, 255)]).setI 0xFFD)).map
    (fun t => (t.peek 0xFFD, t.peek 0xFFE, t.peek 0xFFF, t.I)) = some (2, 5, 5, 0xFFD) := by decide
theorem test_ldBVx_out_of_range : (cycleOn 0xF433 ((regs [(4, 255)]).setI 0xFFFF)).map faultView =
    some (.outOfBounds, 65535, 0x200) := by decide
/-- T-ST-1, T-ST-5. -/
theorem test_ldMiVx : (cycleOn 0xF155 ((regs [(0, 0x11), (1, 0x22), (2, 0x33)]).setI 0x400)).map
    (fun t => (t.peek 0x400, t.peek 0x401, t.peek 0x402, t.I)) = some (0x11, 0x22, 0, 0x400) := by decide
theorem test_ldMiVx_out_of_range : (cycleOn 0xF255 ((regs [(0, 1), (1, 2), (2, 3)]).setI 0xFFE)).map
    (fun t => (faultView t, t.peek 0xFFE)) = some ((.outOfBounds, 4096, 0x200), 0) := by decide
/-- T-LDM-1, T-LDM-3. -/
theorem test_ldVxMi : (cycleOn 0xF265 (((regs [(3, 0x77)]).pokeRange 0x400 [0xAA, 0xBB, 0xCC, 0xDD]).setI 0x400)).map
    (fun t => (t.readV 0, t.readV 1, t.readV 2, t.readV 3)) = some (0xAA, 0xBB, 0xCC, 0x77) := by decide
theorem test_ldVxMi_out_of_range : (cycleOn 0xF165 ((regs [(0, 9), (1, 9)]).setI 0xFFF)).map
    (fun t => (faultView t, t.readV 0)) = some ((.outOfBounds, 4096, 0x200), 9) := by decide

/-! ### Fetch, decode and the other events -/

/-- T-FETCH-2, T-FETCH-4. -/
theorem test_fetch_last_byte : (event (.cycle 0) (State.reset.setPc 0xFFF)).map faultView =
    some (.outOfBounds, 4096, 0xFFF) := by decide
theorem test_fetch_beyond : (event (.cycle 0) (State.reset.setPc 0xFFFF)).map faultView =
    some (.outOfBounds, 65535, 0xFFFF) := by decide
/-- S9, T-FAULT-1: the word is recorded, pc stays, DIRTY is cleared. -/
theorem test_bad_instruction : (cycleOn 0xFFFF (State.reset.setDirty true)).map (fun t => (faultView t, t.dirty)) =
    some ((.badInstruction, 65535, 0x200), false) := by decide
/-- T-TMR-2's last two ticks, T-TMR-6. -/
theorem test_delayTick_to_zero : (event .delayTick (State.reset.setDT 1)).map (fun t => (t.DT, t.out)) =
    some (0, some .delayZero) := by decide
theorem test_delayTick_at_zero : (event .delayTick State.reset).map (fun t => (t.DT, t.out)) = some (0, none) := by
  decide
theorem test_ticks_are_separate : (event .delayTick ((State.reset.setDT 3).setST 7)).map (fun t => (t.DT, t.ST)) =
    some (2, 7) := by decide
/-- T-TMR-3's second SoundTick. -/
theorem test_soundTick_to_zero : (event .soundTick (State.reset.setST 1)).map (fun t => (t.ST, t.out)) =
    some (0, some .soundZero) := by decide
/-- T-WAIT-3, T-WAIT-2, T-KEV-1. -/
theorem test_press_wakes : (event (.keyEvent 12 true) (State.reset.setWait ⟨true, 15⟩)).map
    (fun t => (t.readK 12, t.readV Reg.vf, t.wait.valid)) = some (true, 0x0C, false) := by decide
theorem test_release_does_not_wake : (event (.keyEvent 12 false) (State.reset.setWait ⟨true, 15⟩)).map
    (fun t => (t.readV Reg.vf, t.wait)) = some (0, ⟨true, 15⟩) := by decide
theorem test_press_while_running : (event (.keyEvent 9 true) State.reset).map
    (fun t => (t.readK 9, t.V)) = some (true, State.reset.V) := by decide
/-- T-ROM-1, T-RST-2. -/
theorem test_romLoad : (event (.romLoad [0x60, 0x0A]) State.reset).map (fun t => (t.mem, t.pc, t.out)) =
    some ([(0x200, 0x60), (0x201, 0x0A)], 0x200, none) := by decide
theorem test_reset_clears_fault : event .reset ((State.reset.raise .stackOverflow 512).setPc 0x300) =
    some State.reset := by decide
/-- T-RST-1: the font's first, sixth and last bytes. -/
theorem test_reset_font : (State.reset.peek 0, State.reset.peek 5, State.reset.peek 79, State.reset.peek 80) =
    (0xF0, 0x20, 0x80, 0x00) := by decide
/-- The next step after `withFetchWord` runs the placed word, from any latch and with any event listed. -/
theorem test_withFetchWord :
    (after (step ((((State.reset.raise .stackOverflow 0).setWait ⟨true, 1⟩).setInbox [.reset]).withFetchWord 16 0x600A))).map
    (fun t => (t.pc, t.readV 0)) = some (0x202, 0x0A) := by decide

/-! ### Witnesses: the hypotheses of every statement that has some are met together, each clause at a boundary -/

theorem wit_DecodeEncodeIsIdentity : (Instr.sys 0x0E1#12).wf = true ∧ (Instr.drw 15 15 15#4).wf = true := by decide

theorem wit_EncodeDecodeIsIdentity : decode 0xDFFF#16 = .ok (.drw 15 15 15#4) := by decide

/-- The last address at which a fetch succeeds, with an empty and a nonempty event list. -/
theorem wit_StepRunsDecodedInstruction :
    let s := State.reset.setPc 0xFFE
    Running s ∧ s.pc.toNat + 1 < s.cfg.memSize ∧ s.inbox = [] ∧ (s.setInbox [.cycle 255]).inbox = .cycle 255 :: [] ∧
    decode (Word.ofBytes (s.peek s.pc.toNat) (s.peek (s.pc.toNat + 1))) = .ok (.sys 0) := by decide

/-- The fetch clause at 0xFFF with an empty event list and at 0x1000 with a listed Cycle, the decode clause at 0xFFE with
both. -/
theorem wit_FetchAndDecodeFaultsAreLatched :
    let s := State.reset.setPc 0xFFF
    let u := (State.reset.setPc 0x1000).setInbox [.cycle 1]
    let v := (State.reset.setPc 0xFFE).pokeRange 0xFFE [0xFF, 0xFF]
    (Running s ∧ s.cfg.memSize ≤ s.pc.toNat + 1 ∧ ∃ u, TakesCycle s u) ∧
    (Running u ∧ u.cfg.memSize ≤ u.pc.toNat ∧ ∃ w, TakesCycle u w) ∧
    (Running v ∧ v.pc.toNat + 1 < v.cfg.memSize ∧ (∃ w, TakesCycle v w) ∧
      (∃ w, TakesCycle (v.setInbox [.cycle 1]) w) ∧
      decode (Word.ofBytes (v.peek v.pc.toNat) (v.peek (v.pc.toNat + 1))) = .error (.badInstruction 0xFFFF)) :=
  ⟨⟨by decide, by decide, _, .inl ⟨rfl, rfl⟩⟩, ⟨by decide, by decide, _, .inr ⟨1, [], rfl, rfl⟩⟩,
    by decide, by decide, ⟨_, .inl ⟨rfl, rfl⟩⟩, ⟨_, .inr ⟨1, [], rfl, rfl⟩⟩, by decide⟩

/-- A faulted machine and a waiting one, each with an empty and a nonempty event list. -/
theorem wit_CycleIgnoredWhileFaultedOrWaiting :
    let s := State.reset.raise .stackUnderflow 0
    let u := State.reset.setWait ⟨true, 3⟩
    s.fault.valid = true ∧ s.inbox = [] ∧ u.wait.valid = true ∧
    (u.setInbox [.cycle 0]).inbox = .cycle 0 :: [] := by decide

/-- A faulted machine that takes a tick, and one that takes Reset. -/
theorem wit_FaultLatchClearedOnlyByReset :
    let s := State.reset.raise .stackUnderflow 0
    s.fault.valid = true ∧ (∀ es, (s.setInbox [.delayTick]).inbox ≠ .reset :: es) ∧
    (∃ t, step (s.setInbox [.delayTick]) = .next t) ∧ (s.setInbox [.reset]).inbox = .reset :: [] ∧
    ∃ t, step (s.setInbox [.reset]) = .next t := ⟨rfl, nofun, ⟨_, rfl⟩, rfl, ⟨_, rfl⟩⟩

/-- A wait left by a press, one left by Reset, and one entered. -/
theorem wit_WaitEnteredByFx0aLeftByPress :
    let s := State.reset.setWait ⟨true, 3⟩
    (event (.keyEvent 0 true) s).map (·.wait.valid) = some false ∧ (event .reset s).map (·.wait.valid) = some false ∧
    State.reset.wait.valid = false ∧ (cycleOn 0xF30A State.reset).map (·.wait.valid) = some true := by decide

theorem wit_ResetStateIsAsSpecified : (State.reset.setInbox [.reset, .cycle 0]).inbox = .reset :: [.cycle 0] := by decide

/-- DT and ST at 0, 1 and 255. -/
theorem wit_TicksCountDownOneTimer :
    (State.reset.setInbox [.delayTick]).inbox = .delayTick :: [] ∧
    (State.reset.setInbox [.soundTick]).inbox = .soundTick :: [] ∧
    (event .delayTick State.reset).map (·.DT) = some 0 ∧ (event .soundTick (State.reset.setST 1)).map (·.ST) = some 0 ∧
    (event .delayTick (State.reset.setDT 255)).map (·.DT) = some 254 := by decide

theorem wit_CountdownNotifiesOnceAtZero :
    let s := (State.reset.setDT 2).setInbox (List.replicate 2 .delayTick ++ [.reset])
    let u := (State.reset.setST 1).setInbox (List.replicate 1 .soundTick ++ [])
    s.inbox = List.replicate (1 + 1) .delayTick ++ [.reset] ∧ u.inbox = List.replicate (0 + 1) .soundTick ++ [] := by
  decide

theorem wit_KeyEventWritesCellAndWakes :
    let s := (State.reset.setWait ⟨true, 15⟩).setInbox [.keyEvent 15 true]
    s.inbox = .keyEvent 15 true :: [] ∧ s.wait.valid = true := by decide

/-- The largest ROM that fits and the smallest that does not (source example S8). -/
theorem wit_RomLoadIsAllOrNothing :
    State.reset.wf = true ∧ State.reset.cfg.pcInit + (List.replicate 3584 (0xAB : Byte)).length ≤ State.reset.cfg.memSize ∧
    State.reset.cfg.memSize < State.reset.cfg.pcInit + (List.replicate 3585 (0xAB : Byte)).length := by
  refine ⟨by decide, ?_, ?_⟩ <;> rw [List.length_replicate] <;> decide

/-- Schedules that meet the host premises: with the smallest program, and with no ROM and no Cycle. -/
theorem test_hostPremises_met :
    HostPremises Config.std [.reset, .delayTick, .romLoad [0x12, 0x00], .keyEvent 3 true, .cycle 7, .soundTick] ∧
    HostPremisesAfterReset Config.std [] := by decide

/-- R306 (a), (b), (c), each broken alone: a second Reset; two ROMs, and one byte too many; a ROM after the first Cycle. -/
theorem test_hostPremises_broken :
    ¬ HostPremises Config.std [.romLoad [1], .reset] ∧ ¬ HostPremises Config.std [.reset, .cycle 0, .reset] ∧
    ¬ HostPremises Config.std [.reset, .romLoad [1], .romLoad [1], .cycle 0] ∧
    ¬ HostPremises { Config.std with memSize := 514 } [.reset, .romLoad [1, 2, 3]] ∧
    ¬ HostPremises Config.std [.reset, .cycle 0, .romLoad [1]] := by decide

/-- A ROM that rewrites its own second word, ticks and keys around the load, the first Cycle listed; and a first Cycle that is
not listed. -/
theorem wit_HostPremisesGiveOneLoadThenTheProgram :
    let pre : List Event := [.keyEvent 1 true, .romLoad [0xF1, 0x55, 0x12, 0x02], .delayTick]
    let s := State.reset.setInbox (.reset :: pre ++ [.cycle 9, .soundTick, .cycle 8])
    let v := State.reset.setInbox (.reset :: pre ++ [])
    s.cfg.wf = true ∧ HostPremises s.cfg s.inbox ∧ HostPremises v.cfg v.inbox ∧ (∀ e ∈ pre, e.isCycle = false) ∧
    (Event.cycle 9).isCycle = true ∧
    (∃ u, Sys2Proof.core.run 1 s = .next u) ∧ ∃ u w, Sys2Proof.core.run 4 s = .next u ∧ step u = .next w :=
  ⟨by decide, by decide, by decide, by decide, rfl, ⟨_, rfl⟩, ⟨_, _, rfl, rfl⟩⟩

/-- `sp` at 1 and 16, and at 0. -/
theorem wit_RetPopsAndResumesAfterCall :
    (State.reset.setSp 1).sp ≠ 0 ∧ (State.reset.setSp 16).sp ≠ 0 ∧ State.reset.sp = 0 := by decide

theorem wit_SysAndJpWriteOnlyPc : (0x0E1#12 ≠ 0x0E0#12 ∧ 0x0E1#12 ≠ 0x0EE#12) ∧ 0xFFF#12 ≠ 0x0E0#12 := by decide

/-- `sp` at 15 and at 16. -/
theorem wit_CallPushesItsOwnAddress :
    (State.reset.setSp 15).sp ≠ (State.reset.setSp 15).cfg.stackCap ∧
    (State.reset.setSp 16).sp = (State.reset.setSp 16).cfg.stackCap := by decide

theorem wit_CallThenRetResumesAfterCall :
    let s := State.reset.setSp 15
    s.sp ≠ s.cfg.stackCap ∧ 14 < s.sp := by decide

/-- Both settings of `SHIFT_SRC`. -/
theorem wit_ShiftsMoveOneBit :
    let s := regs [(1, 0x81), (2, 0x7E)]
    let u : State := { s with cfg := { s.cfg with shiftSrc := .vy } }
    0x81 = (s.readV (if s.cfg.shiftSrc = .vx then 1 else 2)).toNat ∧
    0x7E = (u.readV (if u.cfg.shiftSrc = .vx then 1 else 2)).toNat := by decide

theorem wit_RndMasksTheDraw :
    (State.reset.setRndIn (some 0xFF)).rndIn = some 0xFF ∧ (0x7F#8).getLsbD 7 = false := by decide

theorem wit_GlyphAddressIsFiveTimesVx : (regs [(3, 0xFF)]).cfg = Config.std := by decide

/-- I at 0xFFD, the last that fits, and at 0xFFE. -/
theorem wit_BcdStoresThreeDigits :
    let s := State.reset.setI 0xFFD
    let u := State.reset.setI 0xFFE
    s.mem.wf s.cfg = true ∧ s.I.toNat + 2 < s.cfg.memSize ∧ u.mem.wf u.cfg = true ∧ u.cfg.memSize ≤ u.I.toNat + 2 := by
  decide

/-- X = 15 with I at 0xFF0, the last that fits, and at 0xFF1. -/
theorem wit_BulkStoreWritesV0ToVx :
    let s := State.reset.setI 0xFF0
    let u := State.reset.setI 0xFF1
    s.mem.wf s.cfg = true ∧ s.I.toNat + (15 : Reg).val < s.cfg.memSize ∧ (0 : Reg) ≤ 15 ∧
    u.cfg.memSize ≤ u.I.toNat + (15 : Reg).val := by decide

theorem wit_BulkLoadReadsV0ToVx :
    let s := State.reset.setI 0xFFF
    let u := State.reset.setI 0x1000
    s.I.toNat + (0 : Reg).val < s.cfg.memSize ∧ u.cfg.memSize ≤ u.I.toNat + (0 : Reg).val := by decide

theorem wit_BulkStoreThenLoadRestores :
    let s := (regs [(0, 1), (15, 2)]).setI 0xFF0
    s.mem.wf s.cfg = true ∧ s.I.toNat + (15 : Reg).val < s.cfg.memSize := by decide

theorem wit_StoredWordIsFetchedNext :
    let s := (State.reset.setPc 0xFFC).setI 0xFFE
    s.mem.wf s.cfg = true ∧ 1 ≤ (1 : Reg).val ∧ s.I = s.pc + 2 ∧ s.I.toNat + (1 : Reg).val < s.cfg.memSize := by decide

/-- N = 0 with I out of memory, and a sprite that ends at the last byte of memory. -/
theorem wit_DrawInvertsPixelsUnderSprite :
    let s := (State.reset.setFb [0, 2047]).setI 0xFFF
    s.fb.wf s.cfg = true ∧ 8 ≤ s.cfg.displayW ∧ 15 ≤ s.cfg.displayH ∧ s.I.toNat + (1#4).toNat ≤ s.cfg.memSize ∧
    (0#4).toNat = 0 ∧ (State.reset.setI 0xFFFF).fb.wf Config.std = true := by decide

theorem wit_DrawOutOfRangeFaults :
    let s := State.reset.setI 0xFFF
    0 < (2#4).toNat ∧ s.cfg.memSize < s.I.toNat + (2#4).toNat := by decide

theorem wit_DrawTwiceRestoresScreen :
    let s := (State.reset.setFb [5]).setI 0xFF1
    s.fb.wf s.cfg = true ∧ 8 ≤ s.cfg.displayW ∧ 15 ≤ s.cfg.displayH ∧ s.I.toNat + (15#4).toNat ≤ s.cfg.memSize ∧
    (14 : Reg) ≠ Reg.vf ∧ (0 : Reg) ≠ Reg.vf := by decide

/-- A CLS, and a DRW with N = 0. -/
theorem wit_DirtyTellsWhetherScreenWasWritten :
    State.reset.dirty = false ∧ faultOf .cls State.reset = none ∧ (∃ t, exec .cls State.reset = .next t) ∧
    faultOf (.drw 0 0 0#4) (State.reset.setI 0xFFFF) = none ∧
    (∃ t, exec (.drw 0 0 0#4) (State.reset.setI 0xFFFF) = .next t) :=
  ⟨rfl, rfl, ⟨_, rfl⟩, by decide, ⟨_, rfl⟩⟩

/-- V[X] at 15 and at 16. -/
theorem wit_KeySkipsTestOneKey :
    ((regs [(2, 15)]).readV 2).toNat = (15 : Key).val ∧ 16 ≤ ((regs [(2, 16)]).readV 2).toNat := by decide

theorem wit_KeyWaitEndsWithFirstPress :
    ∀ e ∈ [Event.cycle 0, .keyEvent 4 false, .delayTick, .soundTick],
      (∃ r, e = .cycle r) ∨ (∃ q, e = .keyEvent q false) ∨ e = .delayTick ∨ e = .soundTick := by simp

/-- A storing form and one that stores nothing; an address just past the stored bytes. -/
theorem wit_MemoryWrittenOnlyByStores :
    let s := State.reset.setI 0xFFC
    (∃ t, exec (.ldBVx 4) s = .next t) ∧ storeRange (.ldBVx 4) s = some (0xFFC, 3) ∧ 0xFFC + 3 ≤ 0xFFF ∧
    storeRange .cls s = none := ⟨⟨_, rfl⟩, rfl, by decide, rfl⟩

theorem wit_RegistersWrittenOnlyAsListed :
    (∃ t, exec (.addVxVy 1 2) State.reset = .next t) ∧ (Instr.addVxVy 1 2).writesReg 2 = false ∧
    (∃ t, exec (.or 1 2) State.reset = .next t) ∧ (Instr.or 1 2).writesReg Reg.vf = false :=
  ⟨⟨_, rfl⟩, by decide, ⟨_, rfl⟩, by decide⟩

theorem wit_SpecialRegistersWrittenOnlyAsListed : ∃ t, exec (.call 0x300) State.reset = .next t := ⟨_, rfl⟩

theorem wit_ScreenAndPortsWrittenOnlyAsListed : ∃ t, exec .cls State.reset = .next t := ⟨_, rfl⟩

theorem wit_EventsWriteOnlyTheirState :
    (event (.keyEvent 1 true) State.reset).isSome = true ∧ (event (.romLoad [1]) State.reset).isSome = true := by decide

/-- An instruction that can fault, in a state where it does not, at the boundary. -/
theorem wit_PcNetEffectTable :
    faultOf (.ldBVx 0) (State.reset.setI 0xFFD) = none ∧ faultOf .ret (State.reset.setSp 1) = none := by decide

theorem wit_FaultsAreExactlyTheListed :
    faultOf (.ldBVx 0) (State.reset.setI 0xFFE) = some (.outOfBounds, 4096) ∧
    faultOf .ret State.reset = some (.stackUnderflow, 0) ∧
    faultOf (.call 0x300) (State.reset.setSp 16) = some (.stackOverflow, 512) ∧
    faultOf (.skp 2) (regs [(2, 16)]) = some (.keyOutOfBounds, 16) ∧ faultOf .cls State.reset = none := by decide

/-- With an empty event list and with a listed Cycle. -/
theorem wit_ParkedMachineClearsOnlyDirty :
    let s := State.reset.pokeRange 0x200 [0x12, 0x00]
    Running s ∧ Parked s ∧ (∃ u, TakesCycle s u) ∧ ∃ u, TakesCycle (s.setInbox [.cycle 0]) u :=
  ⟨by decide, ⟨0x1200, 0x200, by decide, by decide, by decide⟩, ⟨_, .inl ⟨rfl, rfl⟩⟩, ⟨_, .inr ⟨0, [], rfl, rfl⟩⟩⟩

/-- The clause of `SHIFT_SRC` for 8FF6 and for 8EF5, the clause of `VF_ORDER` for 81E6, a shift with X other than Y. -/
theorem wit_OpenParametersMatterOnlyWhereStated :
    (∀ x y, (Instr.shr 15 15 = .shr x y ∨ Instr.shr 15 15 = .shl x y) → x = y) ∧
    (∀ x y, (Instr.sub 14 15 = .shr x y ∨ Instr.sub 14 15 = .shl x y) → x = y) ∧
    (∀ x y, (Instr.shr 1 14 = .addVxVy x y ∨ Instr.shr 1 14 = .sub x y ∨ Instr.shr 1 14 = .subn x y ∨
      Instr.shr 1 14 = .shr x y ∨ Instr.shr 1 14 = .shl x y) → x ≠ Reg.vf) ∧
    (∃ t, exec (.shr 15 15) State.reset = .next t) ∧ (∃ t, exec (.sub 14 15) State.reset = .next t) ∧
    ∃ t, exec (.shr 1 14) State.reset = .next t := by
  refine ⟨?_, ?_, ?_, ⟨_, rfl⟩, ⟨_, rfl⟩, ⟨_, rfl⟩⟩
  · rintro x y (h | h) <;> cases h; rfl
  · rintro x y (h | h) <;> cases h
  · rintro x y (h | h | h | h | h) <;> cases h; decide

/-- An instruction that is neither a key skip nor FX18, and FX18. -/
theorem wit_KeysAndSoundTimerAreInvisible :
    (∀ x, Instr.ldVxDt 1 ≠ .skp x) ∧ (∀ x, Instr.ldVxDt 1 ≠ .sknp x) ∧ (∀ x, Instr.ldVxDt 1 ≠ .ldStVx x) ∧
    (∃ t, exec (.ldVxDt 1) State.reset = .next t) ∧ ∃ t, exec (.ldStVx 1) State.reset = .next t :=
  ⟨nofun, nofun, nofun, ⟨_, rfl⟩, ⟨_, rfl⟩⟩

/-- Addresses 0xFFF and 0x1000 for one byte, 0xFFE and 0xFFF for two. -/
theorem wit_MemoryPrimitives :
    State.reset.mem.wf State.reset.cfg = true ∧ 0xFFF < State.reset.cfg.memSize ∧ State.reset.cfg.memSize ≤ 0x1000 ∧
    0xFFE + 1 < State.reset.cfg.memSize ∧ State.reset.cfg.memSize ≤ 0xFFF + 1 := by decide

theorem wit_CanonicalMemoriesWithSameBytesAreEqual :
    let m : Memory := [(0x200, 0x60), (0xFFF, 1)]
    m.wf Config.std = true ∧ ∀ a, m.read Config.std a = m.read Config.std a := ⟨by decide, fun _ => rfl⟩

theorem wit_StepKeepsWellFormed : State.reset.wf = true ∧ (event (.cycle 0) State.reset).isSome = true := by decide

/-- pc at the largest value the invariant allows. -/
theorem wit_StepKeepsReturnAddressesAndPcInRange :
    let s := ((State.reset.writeStack 0 0xFFE).setSp 1).setPc 0x10FE
    s.cfg = Config.std ∧ s.returnsFetchable = true ∧ s.pc.toNat ≤ 0x10FE ∧ (event (.cycle 0) s).isSome = true := by
  decide

end Sys2Proof.Tests
end

section
/-! ## What an instruction does, field by field

`effect i s` says for each field of the state what an instruction that does not fault leaves in it. `exec_of_noFault` and
`exec_of_fault` tie it to the meanings; every frame below is read off the field's own function. -/

namespace Sys2Proof.Machine

/-! ### The fields after an instruction -/

/-- The points under the set bits of the sprite DXYN draws (R202). -/
def drawnPoints (x y : Reg) (n : Nibble) (s : State) : List (Nat × Nat) :=
  spritePoints (s.readV x).toNat (s.readV y).toNat (s.peekRange (s.ea 0) n.toNat)

/-- `s` with the bytes stored that the instruction stores (R184, R185). -/
def afterStores (i : Instr) (s : State) : State :=
  match i with
  | .ldBVx x => s.pokeRange (s.ea 0) (bcdDigits (s.readV x))
  | .ldMiVx x => s.pokeRange (s.ea 0) (s.readRegs 0 (x.val + 1))
  | _ => s

/-- `s` with the data registers written that the instruction writes (R22). -/
def afterRegWrites (i : Instr) (s : State) : State :=
  match i with
  | .ldVxNn x nn => s.writeV x nn
  | .addVxNn x nn => s.writeV x (s.readV x + nn)
  | .ldVxVy x y => s.writeV x (s.readV y)
  | .or x y => s.writeV x (s.readV x ||| s.readV y)
  | .and x y => s.writeV x (s.readV x &&& s.readV y)
  | .xor x y => s.writeV x (s.readV x ^^^ s.readV y)
  | .addVxVy x y => s.writeResultFlag x (s.readV x + s.readV y) (carryFlag (s.readV x) (s.readV y))
  | .sub x y => s.writeResultFlag x (s.readV x - s.readV y) (noBorrowFlag (s.readV x) (s.readV y))
  | .subn x y => s.writeResultFlag x (s.readV y - s.readV x) (noBorrowFlag (s.readV y) (s.readV x))
  | .shr x y =>
    s.writeResultFlag x (s.readV (shiftOperand s.cfg x y) >>> 1) (lsbFlag (s.readV (shiftOperand s.cfg x y)))
  | .shl x y =>
    s.writeResultFlag x (s.readV (shiftOperand s.cfg x y) <<< 1) (msbFlag (s.readV (shiftOperand s.cfg x y)))
  | .rnd x nn => s.writeV x (s.rnd &&& nn)
  | .drw x y n => s.writeV Reg.vf (flagByte (collides s.fb (pixelsOf s.cfg (drawnPoints x y n s))))
  | .ldVxDt x => s.writeV x s.DT
  | .addIVx x => s.writeV Reg.vf (flagByte (pastMemoryFlag s.cfg (s.I.toNat + (s.readV x).toNat)))
  | .ldVxMi x => s.writeRegs 0 (s.peekRange (s.ea 0) (x.val + 1))
  | _ => s

/-- The stack cells after the instruction (R124). -/
def stackAfter (i : Instr) (s : State) : List Word :=
  match i with
  | .call _ => stackWrite s.stack s.sp s.pc
  | _ => s.stack

/-- `sp` after the instruction (R121, R124). -/
def spAfter (i : Instr) (s : State) : Nat :=
  match i with
  | .ret => s.sp - 1
  | .call _ => s.sp + 1
  | _ => s.sp

/-- `I` after the instruction (R181 to R183). -/
def indexAfter (i : Instr) (s : State) : Word :=
  match i with
  | .ldINnn nnn => addrOf nnn
  | .addIVx x => BitVec.ofNat 16 (s.I.toNat + (s.readV x).toNat)
  | .ldFVx x => glyphAddr s.cfg (s.readV x)
  | _ => s.I

/-- `DT` after the instruction (R225). -/
def delayAfter (i : Instr) (s : State) : Byte :=
  match i with
  | .ldDtVx x => s.readV x
  | _ => s.DT

/-- `ST` after the instruction (R226). -/
def soundAfter (i : Instr) (s : State) : Byte :=
  match i with
  | .ldStVx x => s.readV x
  | _ => s.ST

/-- The framebuffer after the instruction (R201, R202). -/
def fbAfter (i : Instr) (s : State) : FrameBuffer :=
  match i with
  | .cls => []
  | .drw x y n => (pixelsOf s.cfg (drawnPoints x y n s)).foldl FrameBuffer.toggle s.fb
  | _ => s.fb

/-- `DIRTY` after the instruction (R39). -/
def dirtyAfter (i : Instr) (s : State) : Bool :=
  match i with
  | .cls => true
  | .drw x y n => s.dirty || !(drawnPoints x y n s).isEmpty
  | _ => s.dirty

/-- `WAIT` after the instruction (R224). -/
def waitAfter (i : Instr) (s : State) : WaitLatch :=
  match i with
  | .ldVxK x => { valid := true, reg := x }
  | _ => s.wait

/-- The next state of an instruction that does not fault: the key state, the latch, the parameters and the environment's
side are not among what it writes (R57). -/
def effect (i : Instr) (s : State) : State :=
  { s with
    mem := (afterStores i s).mem
    V := (afterRegWrites i s).V
    stack := stackAfter i s
    sp := spAfter i s
    pc := BitVec.ofNat 16 (netPc i s)
    I := indexAfter i s
    DT := delayAfter i s
    ST := soundAfter i s
    fb := fbAfter i s
    dirty := dirtyAfter i s
    wait := waitAfter i s }

/-! ### The program counter as a number -/

theorem add_eq_ofNat (w : Word) (n : Nat) : w + BitVec.ofNat 16 n = BitVec.ofNat 16 ((w.toNat + n) % 65536) := by
  apply BitVec.eq_of_toNat_eq; simp

theorem advance_eq (s : State) : s.advance = { s with pc := BitVec.ofNat 16 ((s.pc.toNat + 2) % 65536) } := by
  rw [← add_eq_ofNat]; rfl

theorem skipIf_eq (s : State) (b : Bool) :
    s.skipIf b = { s with pc := BitVec.ofNat 16 ((s.pc.toNat + if b then 4 else 2) % 65536) } := by
  rw [← add_eq_ofNat]; cases b <;> rfl

theorem addrOf_eq_ofNat (nnn : Addr12) : addrOf nnn = BitVec.ofNat 16 nnn.toNat := by
  apply BitVec.eq_of_toNat_eq; simp [addrOf]

theorem addrOf_add_eq_ofNat (nnn : Addr12) (v : Byte) :
    addrOf nnn + v.setWidth 16 = BitVec.ofNat 16 (nnn.toNat + v.toNat) := by
  apply BitVec.eq_of_toNat_eq; simp [addrOf]

/-! ### Where an instruction faults -/

theorem boundsFault_eq (s : State) (n : Nat) :
    boundsFault s n = (s.rangeFault n).map fun a => (.outOfBounds, a) := by
  cases h : s.rangeFault n with
  | some a =>
    obtain ⟨hn, rfl⟩ := s.rangeFault_eq_some.1 h
    simp [boundsFault, hn]
  | none =>
    have hn := s.rangeFault_eq_none.1 h
    simp only [boundsFault, Option.map_none, ite_eq_right_iff, reduceCtorEq, imp_false]
    omega

theorem boundsFault_eq_none {s : State} {n : Nat} :
    boundsFault s n = none ↔ n = 0 ∨ s.I.toNat + n ≤ s.cfg.memSize := by
  rw [boundsFault_eq, Option.map_eq_none_iff, State.rangeFault_eq_none]

theorem rangeFault_of_boundsFault {s : State} {n : Nat} (h : boundsFault s n = none) : s.rangeFault n = none := by
  simpa [boundsFault_eq] using h

theorem rangeFault_of_boundsFault_eq_some {s : State} {n info : Nat} {c : Cause}
    (h : boundsFault s n = some (c, info)) : c = .outOfBounds ∧ s.rangeFault n = some info := by
  simpa [boundsFault_eq, and_comm, eq_comm] using h

theorem keyOf_of_le {v : Byte} (h : 16 ≤ v.toNat) : keyOf v = none := by
  simp [keyOf, h]

theorem keyOf_of_lt {v : Byte} (h : v.toNat < 16) : ∃ k, keyOf v = some k := by
  simp [keyOf, h]

/-- An instruction that faults raises the fault and does nothing else (R246). -/
theorem exec_of_fault {i : Instr} {s : State} {c : Cause} {info : Nat} (h : faultOf i s = some (c, info)) :
    exec i s = .next (s.raise c info) := by
  unfold faultOf at h
  split at h
  case h_1 | h_2 =>
    obtain ⟨hsp, rfl, rfl⟩ : _ ∧ _ ∧ _ := by simpa [eq_comm] using h
    simp [exec, execRet, execCall, State.pop_empty, State.push_full, hsp]
  case h_3 | h_4 | h_5 | h_6 =>
    obtain ⟨rfl, hf⟩ := rangeFault_of_boundsFault_eq_some h
    simp [exec, execDrw, execLdBVx, execLdMiVx, execLdVxMi, hf]
  case h_7 | h_8 =>
    obtain ⟨hv, rfl, rfl⟩ : _ ∧ _ ∧ _ := by simpa [eq_comm] using h
    simp [exec, execSkp, execSknp, keyOf_of_le hv]
  case h_9 => cases h

/-- An instruction that does not fault has its effect. -/
theorem exec_of_noFault {i : Instr} {s : State} (h : faultOf i s = none) : exec i s = .next (effect i s) := by
  cases i with
  | cls | sys _ | ldVxNn _ _ | addVxNn _ _ | ldVxVy _ _ | or _ _ | and _ _ | xor _ _ | ldINnn _ | rnd _ _
  | ldVxDt _ | ldVxK _ | ldDtVx _ | ldStVx _ | addIVx _ | ldFVx _ => exact congrArg Host.Outcome.next (advance_eq _)
  | addVxVy _ _ | sub _ _ | shr _ _ | subn _ _ | shl _ _ =>
    refine congrArg Host.Outcome.next ((advance_eq _).trans ?_)
    rw [State.writeResultFlag_eq]
    rfl
  | seVxNn _ _ | seVxVy _ _ => exact congrArg Host.Outcome.next (skipIf_eq _ _)
  | sneVxNn _ _ | sneVxVy _ _ =>
    simp only [exec, execSneVxNn, execSneVxVy, decide_not]
    exact congrArg Host.Outcome.next (skipIf_eq _ _)
  | jp nnn => exact congrArg (fun a => Host.Outcome.next (s.setPc a)) (addrOf_eq_ofNat nnn)
  | jpV0 nnn => exact congrArg (fun a => Host.Outcome.next (s.setPc a)) (addrOf_add_eq_ofNat nnn _)
  | ret =>
    have hsp : s.sp ≠ 0 := by simpa [faultOf] using h
    simp only [exec, execRet, State.pop_ok s hsp]
    exact congrArg (fun a => Host.Outcome.next ((s.setSp (s.sp - 1)).setPc a)) (add_eq_ofNat _ 2)
  | call nnn =>
    have hsp : s.sp ≠ s.cfg.stackCap := by simpa [faultOf] using h
    simp only [exec, execCall, State.push_ok s hsp, addrOf_eq_ofNat]
    rfl
  | drw x y n =>
    simp only [exec, execDrw, rangeFault_of_boundsFault h, drawPoints_eq]
    exact congrArg Host.Outcome.next (advance_eq _)
  | ldBVx _ | ldMiVx _ =>
    simp only [exec, execLdBVx, execLdMiVx, rangeFault_of_boundsFault h]
    rw [State.pokeRange_eq]
    exact congrArg Host.Outcome.next (advance_eq _)
  | ldVxMi _ =>
    simp only [exec, execLdVxMi, rangeFault_of_boundsFault h]
    rw [State.writeRegs_eq]
    exact congrArg Host.Outcome.next (advance_eq _)
  | skp x | sknp x =>
    obtain ⟨k, hk⟩ := keyOf_of_lt (v := s.readV x) (by simpa [faultOf] using h)
    have hd : s.readK k = keyDown s (s.readV x) := by simp [keyDown, hk]
    simp only [exec, execSkp, execSknp, hk, hd]
    exact congrArg Host.Outcome.next (skipIf_eq _ _)

/-- Everything an instruction can do. -/
theorem exec_cases {i : Instr} {s t : State} (h : exec i s = .next t) :
    (∃ c info, faultOf i s = some (c, info) ∧ t = s.raise c info) ∨ (faultOf i s = none ∧ t = effect i s) := by
  cases hf : faultOf i s with
  | some f =>
    rw [exec_of_fault hf] at h
    injection h with h
    exact .inl ⟨f.1, f.2, rfl, h.symm⟩
  | none =>
    rw [exec_of_noFault hf] at h
    injection h with h
    exact .inr ⟨rfl, h.symm⟩

/-! ### What each field function leaves unchanged -/

section Frames

variable (i : Instr) (s : State)

theorem indexAfter_frame :
    indexAfter i s = s.I ∨ (∃ nnn, i = .ldINnn nnn) ∨ (∃ x, i = .addIVx x) ∨ ∃ x, i = .ldFVx x := by
  unfold indexAfter
  split
  · exact .inr (.inl ⟨_, rfl⟩)
  · exact .inr (.inr (.inl ⟨_, rfl⟩))
  · exact .inr (.inr (.inr ⟨_, rfl⟩))
  · exact .inl rfl

theorem delayAfter_frame : delayAfter i s = s.DT ∨ ∃ x, i = .ldDtVx x := by
  unfold delayAfter
  split
  · exact .inr ⟨_, rfl⟩
  · exact .inl rfl

theorem soundAfter_frame : soundAfter i s = s.ST ∨ ∃ x, i = .ldStVx x := by
  unfold soundAfter
  split
  · exact .inr ⟨_, rfl⟩
  · exact .inl rfl

theorem spAfter_frame : spAfter i s = s.sp ∨ i = .ret ∨ ∃ nnn, i = .call nnn := by
  unfold spAfter
  split
  · exact .inr (.inl rfl)
  · exact .inr (.inr ⟨_, rfl⟩)
  · exact .inl rfl

theorem stackRead_stackAfter_frame (j : Nat) :
    stackRead (stackAfter i s) j = stackRead s.stack j ∨ (j = s.sp ∧ ∃ nnn, i = .call nnn) := by
  unfold stackAfter
  split
  · rw [stackRead_write]
    split
    · next hj => exact .inr ⟨hj, _, rfl⟩
    · exact .inl rfl
  · exact .inl rfl

theorem waitAfter_frame : waitAfter i s = s.wait ∨ ∃ x, i = .ldVxK x := by
  unfold waitAfter
  split
  · exact .inr ⟨_, rfl⟩
  · exact .inl rfl

theorem screenAfter_frame :
    (fbAfter i s = s.fb ∧ dirtyAfter i s = s.dirty) ∨ i = .cls ∨ ∃ x y n, i = .drw x y n := by
  unfold fbAfter dirtyAfter
  split
  · exact .inr (.inl rfl)
  · exact .inr (.inr ⟨_, _, _, rfl⟩)
  · exact .inl ⟨rfl, rfl⟩

theorem afterStores_cfg : (afterStores i s).cfg = s.cfg := by
  unfold afterStores
  split
  · rw [State.pokeRange_eq]
  · rw [State.pokeRange_eq]
  · rfl

theorem effect_peek (a : Nat) : (effect i s).peek a = (afterStores i s).peek a := by
  simp only [State.peek, afterStores_cfg]
  rfl

variable {i s}

theorem peek_afterStores_outside {a : Nat} (h : ∀ lo n, storeRange i s = some (lo, n) → a < lo ∨ lo + n ≤ a) :
    (afterStores i s).peek a = s.peek a := by
  unfold afterStores
  split
  · exact State.peek_pokeRange_outside _ _ _ (h _ _ rfl)
  · exact State.peek_pokeRange_outside _ _ _ (by rw [State.length_readRegs]; exact h _ _ rfl)
  · rfl

theorem readV_afterRegWrites_outside {r : Reg} (h : i.writesReg r = false) :
    (afterRegWrites i s).readV r = s.readV r := by
  cases i with
  | ldVxNn x _ | addVxNn x _ | ldVxVy x _ | or x _ | and x _ | xor x _ | rnd x _ | ldVxDt x | drw _ _ _ | addIVx _ =>
    exact State.readV_writeV_ne s _ (ne_of_beq_false h)
  | addVxVy x _ | sub x _ | shr x _ | subn x _ | shl x _ =>
    obtain ⟨hx, hvf⟩ : r ≠ x ∧ r ≠ Reg.vf := by simpa [Instr.writesReg] using h
    simp [afterRegWrites, State.readV_writeResultFlag, hx, hvf]
  | ldVxMi x =>
    have hx : x.val < r.val := by simpa [Instr.writesReg] using h
    refine State.readV_writeRegs_outside _ _ _ ?_ ?_ <;> rw [State.length_peekRange] <;> omega
  | _ => rfl

theorem isEmpty_drawnPoints_iff {x y : Reg} {n : Nibble} :
    (drawnPoints x y n s).isEmpty = false ↔ ∃ r c, r < n.toNat ∧ c < 8 ∧ spriteBit s r c = true := by
  rw [List.isEmpty_eq_false_iff_exists_mem]
  simp only [drawnPoints, mem_spritePoints, State.length_peekRange, State.getElem_peekRange, State.ea,
    Nat.add_zero, spriteBit]
  constructor
  · rintro ⟨_, r, hr, c, hc, hb, -⟩
    exact ⟨r, c, hr, hc, hb⟩
  · rintro ⟨r, c, hr, hc, hb⟩
    exact ⟨_, r, hr, c, hc, hb, rfl⟩

/-- R39: an instruction run with DIRTY clear sets it exactly when it clears the screen or flips a pixel. -/
theorem dirtyAfter_iff (h : s.dirty = false) : dirtyAfter i s = true ↔
    i = .cls ∨ ∃ x y n r c, i = .drw x y n ∧ r < n.toNat ∧ c < 8 ∧ spriteBit s r c = true := by
  unfold dirtyAfter
  split
  · simp
  · next x y n =>
    rw [h, Bool.false_or, Bool.not_eq_true', isEmpty_drawnPoints_iff]
    constructor
    · rintro ⟨r, c, hbit⟩
      exact .inr ⟨x, y, n, r, c, rfl, hbit⟩
    · rintro (hcls | ⟨_, _, _, r, c, hdrw, hbit⟩)
      · cases hcls
      · cases hdrw
        exact ⟨r, c, hbit⟩
  · next hcls hdrw =>
    rw [h]
    constructor
    · exact fun h => absurd h Bool.false_ne_true
    · rintro (hi | ⟨x, y, n, _, _, hi, -⟩)
      · exact (hcls hi).elim
      · exact (hdrw x y n hi).elim

theorem netPc_lt : netPc i s < 65536 := by
  unfold netPc
  split <;> dsimp only <;> omega

end Frames

/-! ### Which effects see the key state and ST -/

/-- `s` with another key state and another ST. -/
def State.withKeysSound (s : State) (keys : Vector Bool 16) (st : Byte) : State := { s with K := keys, ST := st }

section KeysSound

variable (keys : Vector Bool 16) (st : Byte)

theorem pokeRange_withKeysSound (s : State) (a : Nat) (vs : List Byte) :
    (s.withKeysSound keys st).pokeRange a vs = (s.pokeRange a vs).withKeysSound keys st := by
  induction vs generalizing s a with
  | nil => rfl
  | cons v vs ih => exact ih (s.poke a v) (a + 1)

theorem writeRegs_withKeysSound (s : State) (r : Nat) (vs : List Byte) :
    (s.withKeysSound keys st).writeRegs r vs = (s.writeRegs r vs).withKeysSound keys st := by
  induction vs generalizing s r with
  | nil => rfl
  | cons v vs ih => exact ih (s.writeV _ v) (r + 1)

theorem writeResultFlag_withKeysSound (s : State) (x : Reg) (v : Byte) (f : Bool) :
    (s.withKeysSound keys st).writeResultFlag x v f = (s.writeResultFlag x v f).withKeysSound keys st := by
  unfold State.writeResultFlag
  cases hv : s.cfg.vfOrder <;> simp [State.withKeysSound, hv] <;> rfl

theorem peekRange_withKeysSound (s : State) (a n : Nat) :
    (s.withKeysSound keys st).peekRange a n = s.peekRange a n := by
  induction n generalizing a with
  | zero => rfl
  | succ n ih => exact congrArg (s.peek a :: ·) (ih (a + 1))

theorem readRegs_withKeysSound (s : State) (r n : Nat) :
    (s.withKeysSound keys st).readRegs r n = s.readRegs r n := by
  induction n generalizing r with
  | zero => rfl
  | succ n ih => exact congrArg (s.readV _ :: ·) (ih (r + 1))

theorem drawnPoints_withKeysSound (x y : Reg) (n : Nibble) (s : State) :
    drawnPoints x y n (s.withKeysSound keys st) = drawnPoints x y n s := by
  unfold drawnPoints
  rw [peekRange_withKeysSound]
  rfl

theorem afterStores_withKeysSound (i : Instr) (s : State) :
    afterStores i (s.withKeysSound keys st) = (afterStores i s).withKeysSound keys st := by
  unfold afterStores
  split
  · exact pokeRange_withKeysSound keys st s _ _
  · rw [readRegs_withKeysSound]
    exact pokeRange_withKeysSound keys st s _ _
  · rfl

theorem afterRegWrites_withKeysSound (i : Instr) (s : State) :
    afterRegWrites i (s.withKeysSound keys st) = (afterRegWrites i s).withKeysSound keys st := by
  cases i with
  | addVxVy _ _ | sub _ _ | shr _ _ | subn _ _ | shl _ _ => exact writeResultFlag_withKeysSound keys st s _ _ _
  | ldVxMi x =>
    simp only [afterRegWrites, peekRange_withKeysSound, writeRegs_withKeysSound]
    rfl
  | drw x y n =>
    simp only [afterRegWrites, drawnPoints_withKeysSound]
    rfl
  | _ => rfl

theorem fbAfter_withKeysSound (i : Instr) (s : State) : fbAfter i (s.withKeysSound keys st) = fbAfter i s := by
  unfold fbAfter
  split
  · rfl
  · rw [drawnPoints_withKeysSound]
    rfl
  · rfl

theorem dirtyAfter_withKeysSound (i : Instr) (s : State) :
    dirtyAfter i (s.withKeysSound keys st) = dirtyAfter i s := by
  unfold dirtyAfter
  split
  · rfl
  · rw [drawnPoints_withKeysSound]
    rfl
  · rfl

theorem faultOf_withKeysSound (i : Instr) (s : State) : faultOf i (s.withKeysSound keys st) = faultOf i s := by
  cases i <;> rfl

/-- Only the program counter can see the key state, and only ST the old ST (R33, R34). -/
theorem effect_withKeysSound (i : Instr) (s : State) (hpc : netPc i (s.withKeysSound keys st) = netPc i s) :
    effect i (s.withKeysSound keys st) =
      (effect i s).withKeysSound keys (soundAfter i (s.withKeysSound keys st)) := by
  have hstack : stackAfter i (s.withKeysSound keys st) = stackAfter i s := by cases i <;> rfl
  have hsp : spAfter i (s.withKeysSound keys st) = spAfter i s := by cases i <;> rfl
  have hI : indexAfter i (s.withKeysSound keys st) = indexAfter i s := by cases i <;> rfl
  have hDT : delayAfter i (s.withKeysSound keys st) = delayAfter i s := by cases i <;> rfl
  have hwait : waitAfter i (s.withKeysSound keys st) = waitAfter i s := by cases i <;> rfl
  unfold effect
  rw [hpc, hstack, hsp, hI, hDT, hwait, afterStores_withKeysSound, afterRegWrites_withKeysSound,
    fbAfter_withKeysSound, dirtyAfter_withKeysSound]
  rfl

theorem netPc_withKeysSound {i : Instr} (hskp : ∀ x, i ≠ .skp x) (hsknp : ∀ x, i ≠ .sknp x) (s : State) :
    netPc i (s.withKeysSound keys st) = netPc i s := by
  cases i with
  | skp x => exact absurd rfl (hskp x)
  | sknp x => exact absurd rfl (hsknp x)
  | _ => rfl

theorem netPc_withSound (i : Instr) (s : State) : netPc i (s.withKeysSound s.K st) = netPc i s := by
  cases i <;> rfl

theorem soundAfter_of_fault {i : Instr} {s : State} {f : Cause × Nat} (h : faultOf i s = some f) :
    soundAfter i s = s.ST := by
  rcases soundAfter_frame i s with hst | ⟨x, rfl⟩
  · exact hst
  · cases h

/-- ST at the end of an instruction, whether it faults or not. -/
theorem exec_ST {i : Instr} {s t : State} (h : exec i s = .next t) : t.ST = soundAfter i s := by
  rcases exec_cases h with ⟨c, info, hf, rfl⟩ | ⟨-, rfl⟩
  · exact (soundAfter_of_fault hf).symm
  · rfl

/-- An instruction whose pc does not see the change does the same with another key state and another ST. -/
theorem exec_withKeysSound {i : Instr} {s t : State} (h : exec i s = .next t)
    (hpc : netPc i (s.withKeysSound keys st) = netPc i s) :
    exec i (s.withKeysSound keys st) =
      .next (t.withKeysSound keys (soundAfter i (s.withKeysSound keys st))) := by
  have hf' := faultOf_withKeysSound keys st i s
  rcases exec_cases h with ⟨c, info, hf, rfl⟩ | ⟨hf, rfl⟩
  · rw [exec_of_fault (hf'.trans hf), soundAfter_of_fault (hf'.trans hf)]
    rfl
  · rw [exec_of_noFault (hf'.trans hf), effect_withKeysSound keys st i s hpc]

end KeysSound

/-! ### Well-formed states (R28, R35, R42) -/

theorem State.wf_iff {s : State} : s.wf = true ↔
    s.cfg.wf = true ∧ s.mem.wf s.cfg = true ∧ s.fb.wf s.cfg = true ∧ s.stack.length = s.cfg.stackCap ∧
      s.sp ≤ s.cfg.stackCap := by
  simp [State.wf, and_assoc]

theorem display_pos_of_wf {c : Config} (h : c.wf = true) : 1 ≤ c.displayW ∧ 1 ≤ c.displayH := by
  simp only [Config.wf, Bool.and_eq_true, decide_eq_true_eq] at h
  obtain ⟨⟨-, hw⟩, hh⟩ := h
  exact ⟨hw, hh⟩

theorem wf_afterStores {i : Instr} {s : State} (hm : s.mem.wf s.cfg = true) (hf : faultOf i s = none) :
    (afterStores i s).mem.wf s.cfg = true := by
  unfold afterStores
  split
  · have hb := boundsFault_eq_none.1 hf
    exact State.pokeRange_wf hm (by simp [State.ea, bcdDigits]; omega)
  · have hb := boundsFault_eq_none.1 hf
    exact State.pokeRange_wf hm (by rw [State.length_readRegs]; simp [State.ea]; omega)
  · exact hm

theorem wf_fbAfter {s : State} (hc : s.cfg.wf = true) (hfb : s.fb.wf s.cfg = true) (i : Instr) :
    (fbAfter i s).wf s.cfg = true := by
  obtain ⟨hw, hh⟩ := display_pos_of_wf hc
  unfold fbAfter
  split
  · rfl
  · refine wf_foldl_toggle _ hfb fun p hp => ?_
    obtain ⟨q, -, rfl⟩ := List.mem_map.1 hp
    exact pixel_lt hw hh q.1 q.2
  · exact hfb

theorem call_fits {nnn : Addr12} {s : State} (hsp : s.sp ≤ s.cfg.stackCap) (hf : faultOf (.call nnn) s = none) :
    s.sp < s.cfg.stackCap := by
  have hne : s.sp ≠ s.cfg.stackCap := by simpa [faultOf] using hf
  omega

theorem length_stackAfter {i : Instr} {s : State} (hl : s.stack.length = s.cfg.stackCap)
    (hsp : s.sp ≤ s.cfg.stackCap) (hf : faultOf i s = none) : (stackAfter i s).length = s.cfg.stackCap := by
  unfold stackAfter
  split
  · rw [length_stackWrite (hl ▸ call_fits hsp hf), hl]
  · exact hl

theorem spAfter_le {i : Instr} {s : State} (hsp : s.sp ≤ s.cfg.stackCap) (hf : faultOf i s = none) :
    spAfter i s ≤ s.cfg.stackCap := by
  unfold spAfter
  split
  · omega
  · exact call_fits hsp hf
  · exact hsp

theorem wf_exec {i : Instr} {s t : State} (hs : s.wf = true) (h : exec i s = .next t) : t.wf = true := by
  rcases exec_cases h with ⟨c, info, -, rfl⟩ | ⟨hf, rfl⟩
  · exact hs
  · obtain ⟨hcfg, hmem, hfb, hstack, hsp⟩ := State.wf_iff.1 hs
    exact State.wf_iff.2 ⟨hcfg, wf_afterStores hmem hf, wf_fbAfter hcfg hfb i, length_stackAfter hstack hsp hf,
      spAfter_le hsp hf⟩

theorem wf_cycle {s t : State} (hs : s.wf = true) (h : s.cycle = .next t) : t.wf = true := by
  rcases cycle_cases h with ⟨rfl, -⟩ | ⟨-, ⟨a, -, rfl⟩ | ⟨w, r, -, -, rfl⟩ | ⟨w, i, -, -, h⟩⟩
  · exact hs
  · exact hs
  · exact hs
  · exact wf_exec (s := s.setDirty false) hs h

theorem wf_resetWith {c : Config} (h : c.wf = true) : (State.resetWith c).wf = true :=
  State.wf_iff.2 ⟨h, rfl, rfl, List.length_replicate, Nat.zero_le _⟩

theorem wf_romLoad {s : State} (hs : s.wf = true) (bytes : List Byte) : (s.romLoad bytes).wf = true := by
  unfold State.romLoad
  split
  · exact hs
  · next hfit =>
    obtain ⟨hcfg, hmem, hrest⟩ := State.wf_iff.1 hs
    have hp := State.pokeRange_wf hmem (Nat.le_of_not_lt hfit)
    rw [State.pokeRange_eq]
    exact State.wf_iff.2 ⟨hcfg, hp, hrest⟩

/-- Settles O58: a write that passed its check stays in range, and the other events keep the fields well-formedness
speaks of, or reset them. -/
theorem stepKeepsWellFormed : Obligations.StepKeepsWellFormed := by
  intro s t hs h
  rcases step_cases h with ⟨-, h⟩ | ⟨r, es, -, h⟩ | ⟨es, -, rfl⟩ | ⟨b, es, -, rfl⟩ | ⟨es, -, rfl⟩ | ⟨es, -, rfl⟩ |
    ⟨k, p, es, -, rfl⟩
  · exact wf_cycle (s := ((s.setOut none).setRndIn none).setDraws (s.draws + 1)) hs h
  · exact wf_cycle (s := ((s.setOut none).setInbox es).setRndIn (some r)) hs h
  · exact wf_resetWith (State.wf_iff.1 hs).1
  · exact wf_romLoad (s := (s.setOut none).setInbox es) hs b
  · rw [State.delayTick_eq]; exact hs
  · rw [State.soundTick_eq]; exact hs
  · rw [State.keyEvent_eq]; exact hs

/-! ### Frames of instructions -/

/-- Settles O46, by the frame of the stored bytes. -/
theorem memoryWrittenOnlyByStores : Obligations.MemoryWrittenOnlyByStores := by
  intro i s t h a ha
  rcases exec_cases h with ⟨c, info, -, rfl⟩ | ⟨-, rfl⟩
  · rfl
  · rw [effect_peek, peek_afterStores_outside ha]

/-- Settles O47, by the frame of the written registers. -/
theorem registersWrittenOnlyAsListed : Obligations.RegistersWrittenOnlyAsListed := by
  intro i s t h r hr
  rcases exec_cases h with ⟨c, info, -, rfl⟩ | ⟨-, rfl⟩
  · rfl
  · exact readV_afterRegWrites_outside hr

/-- Settles O48, one field's frame a clause. -/
theorem specialRegistersWrittenOnlyAsListed : Obligations.SpecialRegistersWrittenOnlyAsListed := by
  intro i s t h
  rcases exec_cases h with ⟨c, info, -, rfl⟩ | ⟨-, rfl⟩
  · exact ⟨.inl rfl, .inl rfl, .inl rfl, .inl rfl, fun _ => .inl rfl, .inl rfl⟩
  · exact ⟨indexAfter_frame i s, delayAfter_frame i s, soundAfter_frame i s, spAfter_frame i s,
      stackRead_stackAfter_frame i s, waitAfter_frame i s⟩

/-- Settles O49: what is no field function of `effect` is kept by definition. -/
theorem screenAndPortsWrittenOnlyAsListed : Obligations.ScreenAndPortsWrittenOnlyAsListed := by
  intro i s t h
  rcases exec_cases h with ⟨c, info, -, rfl⟩ | ⟨-, rfl⟩
  · exact ⟨.inl ⟨rfl, rfl⟩, rfl, rfl, rfl, rfl, rfl, rfl⟩
  · exact ⟨screenAfter_frame i s, rfl, rfl, rfl, rfl, rfl, rfl⟩

/-- Settles O42, by what `dirtyAfter` says. -/
theorem dirtyTellsWhetherScreenWasWritten : Obligations.DirtyTellsWhetherScreenWasWritten := by
  intro i s t hd hf h
  rw [exec_of_noFault hf] at h
  injection h with h
  subst h
  exact dirtyAfter_iff hd

/-- Settles O51: `effect` takes pc from the table, whose values fit 16 bits. -/
theorem pcNetEffectTable : Obligations.PcNetEffectTable := fun i s hf =>
  ⟨effect i s, exec_of_noFault hf, by simp only [effect, BitVec.toNat_ofNat]; exact Nat.mod_eq_of_lt netPc_lt⟩

/-- Settles O55: both replacements commute with every field function but the pc of EX9E and EXA1 and the ST of FX18. -/
theorem keysAndSoundTimerAreInvisible : Obligations.KeysAndSoundTimerAreInvisible := by
  intro i s t keys st h
  refine ⟨fun hskp hsknp => ?_, fun hst => ?_, ?_⟩
  · have hs : soundAfter i (s.withKeysSound keys s.ST) = t.ST := by rw [exec_ST h]; cases i <;> rfl
    have hrun := exec_withKeysSound keys s.ST h (netPc_withKeysSound keys s.ST hskp hsknp s)
    rwa [hs] at hrun
  · obtain ⟨-, hK, -⟩ := screenAndPortsWrittenOnlyAsListed i s t h
    have hs : soundAfter i (s.withKeysSound s.K st) = st :=
      (soundAfter_frame _ _).resolve_right fun ⟨x, hx⟩ => hst x hx
    have hrun := exec_withKeysSound s.K st h (netPc_withSound st i s)
    rw [hs] at hrun
    exact hrun.trans (by rw [← hK]; rfl)
  · rintro x rfl
    cases h
    rfl

/-- Settles O23: the cell pushed at `sp` is the cell popped. -/
theorem callThenRetResumesAfterCall : Obligations.CallThenRetResumesAfterCall := by
  intro nnn s hsp
  have hcall : faultOf (.call nnn) s = none := by simp [faultOf, hsp]
  have hret : faultOf .ret (effect (.call nnn) s) = none := by simp [faultOf, effect, spAfter]
  have hpc : BitVec.ofNat 16 (netPc .ret (effect (.call nnn) s)) = s.pc + 2 := by
    simp only [netPc, effect, spAfter, stackAfter, Nat.add_sub_cancel, stackRead_write, if_true]
    exact (add_eq_ofNat s.pc 2).symm
  refine ⟨_, _, exec_of_noFault hcall, exec_of_noFault hret, ?_, fun j hj => ?_⟩
  · rw [← hpc]; rfl
  · exact (stackRead_write s.stack s.sp j s.pc).trans (if_neg (Nat.ne_of_lt hj))

/-! ## Whole events -/

/-! ### Every event completes -/

theorem exec_answers (i : Instr) (s : State) : ∃ t, exec i s = .next t := by
  cases hf : faultOf i s with
  | some f => exact ⟨_, exec_of_fault hf⟩
  | none => exact ⟨_, exec_of_noFault hf⟩

theorem cycle_answers (s : State) : ∃ t, s.cycle = .next t := by
  by_cases hi : s.fault.valid = true ∨ s.wait.valid = true
  · exact ⟨s, cycle_ignored hi⟩
  · have hr : Running s := by simpa [Running] using hi
    cases hf : s.fetch with
    | error a => exact ⟨_, cycle_fetch_fault hr hf⟩
    | ok w =>
      cases hd : decode w with
      | error r => exact ⟨_, cycle_decode_fault hr hf hd⟩
      | ok i =>
        rw [cycle_exec hr hf hd]
        exact exec_answers i _

/-- Settles O11, by the event and, for a Cycle, by what it fetches. -/
theorem everyStepAnswersNext : Obligations.EveryStepAnswersNext := by
  intro s
  cases hi : s.inbox with
  | nil =>
    rw [step_free hi]
    exact cycle_answers _
  | cons e es =>
    rw [step_deliver hi]
    cases e with
    | cycle r => exact cycle_answers _
    | reset | romLoad _ | delayTick | soundTick | keyEvent _ _ => exact ⟨_, rfl⟩

/-! ### What whole events leave unchanged -/

theorem cycle_frame {s t : State} (h : s.cycle = .next t) : t.cfg = s.cfg ∧ t.K = s.K := by
  rcases cycle_cases h with ⟨rfl, -⟩ | ⟨-, ⟨a, -, rfl⟩ | ⟨w, r, -, -, rfl⟩ | ⟨w, i, -, -, h⟩⟩
  · exact ⟨rfl, rfl⟩
  · exact ⟨rfl, rfl⟩
  · exact ⟨rfl, rfl⟩
  · obtain ⟨-, hK, hcfg, -⟩ := screenAndPortsWrittenOnlyAsListed i _ t h
    exact ⟨hcfg, hK⟩

/-- Settles O50, by the event delivered. -/
theorem eventsWriteOnlyTheirState : Obligations.EventsWriteOnlyTheirState := by
  intro s t h
  rcases step_cases h with ⟨hi, h⟩ | ⟨r, es, hi, h⟩ | ⟨es, hi, rfl⟩ | ⟨b, es, hi, rfl⟩ | ⟨es, hi, rfl⟩ |
    ⟨es, hi, rfl⟩ | ⟨k, p, es, hi, rfl⟩
  · obtain ⟨hcfg, hK⟩ := cycle_frame h
    exact ⟨hcfg, .inl hK, .inr (.inl hi)⟩
  · obtain ⟨hcfg, hK⟩ := cycle_frame h
    exact ⟨hcfg, .inl hK, .inr (.inr (.inl ⟨r, es, hi⟩))⟩
  · exact ⟨rfl, .inr (.inr ⟨es, hi⟩), .inr (.inr (.inr (.inr ⟨es, hi⟩)))⟩
  · rw [State.romLoad_eq]
    exact ⟨rfl, .inl rfl, .inr (.inr (.inr (.inl ⟨b, es, hi⟩)))⟩
  · rw [State.delayTick_eq]
    exact ⟨rfl, .inl rfl, .inl rfl⟩
  · rw [State.soundTick_eq]
    exact ⟨rfl, .inl rfl, .inl rfl⟩
  · rw [State.keyEvent_eq]
    exact ⟨rfl, .inr (.inl ⟨k, p, es, hi⟩), .inl rfl⟩

/-- A faulted machine ignores a Cycle (R250). -/
theorem cycle_of_faulted {s t : State} (h : s.cycle = .next t) (hf : s.fault.valid = true) : t = s := by
  rw [cycle_ignored (.inl hf)] at h
  injection h with h
  exact h.symm

/-- Settles O9: a faulted machine ignores a Cycle, and no other event but Reset writes latch or pc. -/
theorem faultLatchClearedOnlyByReset : Obligations.FaultLatchClearedOnlyByReset := by
  intro s t hf h
  rcases step_cases h with ⟨hi, h⟩ | ⟨r, es, hi, h⟩ | ⟨es, hi, rfl⟩ | ⟨b, es, hi, rfl⟩ | ⟨es, hi, rfl⟩ |
    ⟨es, hi, rfl⟩ | ⟨k, p, es, hi, rfl⟩
  · obtain rfl := cycle_of_faulted h hf
    exact ⟨fun _ => ⟨rfl, rfl⟩, by simp [hi]⟩
  · obtain rfl := cycle_of_faulted h hf
    exact ⟨fun _ => ⟨rfl, rfl⟩, by simp [hi]⟩
  · exact ⟨fun hr => absurd hi (hr es), fun _ _ => rfl⟩
  · rw [State.romLoad_eq]
    exact ⟨fun _ => ⟨rfl, rfl⟩, by simp [hi]⟩
  · rw [State.delayTick_eq]
    exact ⟨fun _ => ⟨rfl, rfl⟩, by simp [hi]⟩
  · rw [State.soundTick_eq]
    exact ⟨fun _ => ⟨rfl, rfl⟩, by simp [hi]⟩
  · rw [State.keyEvent_eq]
    exact ⟨fun _ => ⟨rfl, rfl⟩, by simp [hi]⟩

/-! ### The Cycle of a step -/

theorem fetch_of_takesCycle {s u : State} (h : TakesCycle s u) : u.fetch = s.fetch := by
  obtain ⟨-, rfl⟩ | ⟨r, es, -, rfl⟩ := h <;> rfl

theorem running_of_takesCycle {s u : State} (h : TakesCycle s u) (hs : Running s) : Running u := by
  obtain ⟨-, rfl⟩ | ⟨r, es, -, rfl⟩ := h <;> exact hs

theorem takesCycle_free {s : State} (h : s.inbox = []) :
    TakesCycle s { s with rndIn := none, draws := s.draws + 1, out := none } := .inl ⟨h, rfl⟩

theorem takesCycle_listed {s : State} {r : Byte} {es : List Event} (h : s.inbox = .cycle r :: es) :
    TakesCycle s { s with rndIn := some r, inbox := es, out := none } := .inr ⟨r, es, h, rfl⟩

/-- A step that takes a Cycle in a Running machine runs the instruction it fetches. -/
theorem step_exec {s u : State} {w : Word} {i : Instr} (hr : Running s) (hu : TakesCycle s u) (hf : s.fetch = .ok w)
    (hd : decode w = .ok i) : step s = exec i (u.setDirty false) :=
  (step_takesCycle hu).trans
    (cycle_exec (running_of_takesCycle hu hr) ((fetch_of_takesCycle hu).trans hf) hd)

/-- Settles O6, for a free and for a listed Cycle. -/
theorem stepRunsDecodedInstruction : Obligations.StepRunsDecodedInstruction := fun s _ hr hpc hd =>
  ⟨fun hi => step_exec hr (takesCycle_free hi) (s.fetch_ok hpc) hd,
    fun _ _ hi => step_exec hr (takesCycle_listed hi) (s.fetch_ok hpc) hd⟩

/-- Settles O7: the recorded address and word fit the 17 bits of the latch. -/
theorem fetchAndDecodeFaultsAreLatched : Obligations.FetchAndDecodeFaultsAreLatched := by
  intro s u hr hu
  have hru := running_of_takesCycle hu hr
  rw [step_takesCycle hu]
  refine ⟨fun hpc => ?_, fun w hpc hw hd => ?_⟩
  · have hf := (fetch_of_takesCycle hu).trans (s.fetch_error_iff.2 ⟨hpc, rfl⟩)
    refine ⟨_, cycle_fetch_fault hru hf, rfl, rfl, rfl, ?_⟩
    have hlt := s.pc.isLt
    simp only [State.raise_eq, BitVec.toNat_ofNat]
    split <;> omega
  · have hf := (fetch_of_takesCycle hu).trans (s.fetch_ok_iff.2 ⟨hpc, hw⟩)
    refine ⟨_, cycle_decode_fault hru hf hd, rfl, rfl, rfl, ?_⟩
    have hlt := w.isLt
    simp only [State.raise_eq, BitVec.toNat_ofNat]
    omega

/-- Settles O8, for a free and for a listed Cycle. -/
theorem cycleIgnoredWhileFaultedOrWaiting : Obligations.CycleIgnoredWhileFaultedOrWaiting := fun _ h =>
  ⟨fun hi => (step_takesCycle (takesCycle_free hi)).trans (cycle_ignored h),
    fun _ _ hi => (step_takesCycle (takesCycle_listed hi)).trans (cycle_ignored h)⟩

/-! ### RomLoad -/

/-- Settles O17, by the size test of R54. -/
theorem romLoadIsAllOrNothing : Obligations.RomLoadIsAllOrNothing := by
  intro s bytes es hs hi
  obtain ⟨-, hmem, -⟩ := State.wf_iff.1 hs
  have hrise := (Memory.wf_iff.1 hmem).1
  have hstep : step s = .next (((s.setOut none).setInbox es).romLoad bytes) := step_deliver hi
  refine ⟨fun hfit => ?_, fun hbig => ?_⟩
  · have hload : ((s.setOut none).setInbox es).romLoad bytes =
        ((s.setOut none).setInbox es).pokeRange s.cfg.pcInit bytes := if_neg (Nat.not_lt.2 hfit)
    rw [hstep, hload]
    exact ⟨_, rfl, State.pokeRange_eq ..,
      fun j hj => State.peek_pokeRange_inside ((s.setOut none).setInbox es) hrise _ _ hj,
      fun b hb => State.peek_pokeRange_outside _ _ _ hb⟩
  · rw [hstep]
    exact congrArg Host.Outcome.next (if_pos hbig)

/-! ### Reset -/

theorem stackRead_replicate_zero (n i : Nat) : stackRead (List.replicate n 0) i = 0 := by
  induction n generalizing i with
  | zero => rfl
  | succ n ih =>
    cases i with
    | zero => rfl
    | succ i => exact ih i

theorem reset_peek (a : Nat) : State.reset.peek a = fontTable.getD a 0 := rfl

/-- Settles O12, by evaluation of the reset state, with the cells of memory and stack read through their lists. -/
theorem resetStateIsAsSpecified : Obligations.ResetStateIsAsSpecified := by
  refine ⟨fun s es hi => step_deliver hi, rfl, rfl, ⟨rfl, rfl⟩, fun a h => ?_, fun a h => ?_, fun r => ?_, fun k => ?_,
    rfl, rfl, stackRead_replicate_zero _, rfl, rfl, fun _ _ => rfl, rfl⟩
  · rw [reset_peek, List.getD_eq_getElem _ _ h]
  · rw [reset_peek, List.getD_eq_default _ _ h]
  · exact Vector.getElem_replicate r.isLt
  · exact Vector.getElem_replicate k.isLt

/-- Settles O60: legal parameters make a well-formed reset state. -/
theorem resetMeetsTheInvariants : Obligations.ResetMeetsTheInvariants :=
  ⟨wf_resetWith (by decide), rfl, rfl, by decide⟩

/-! ### Ticks and keys -/

/-- The three branches of a tick (R52), as numbers. -/
theorem timer_cases (v : Byte) :
    v = 0 ∨ v = 1 ∨ (v ≠ 0 ∧ v ≠ 1 ∧ v.toNat ≠ 1 ∧ (v - 1).toNat = v.toNat - 1) := by
  by_cases h0 : v = 0
  · exact .inl h0
  by_cases h1 : v = 1
  · exact .inr (.inl h1)
  exact .inr (.inr ⟨h0, h1, by bv_omega, by bv_omega⟩)

/-- R52: a DelayTick counts DT down to 0 and says when it gets there. -/
theorem delayTick_spec {s : State} (hout : s.out = none) : s.delayTick.DT.toNat = s.DT.toNat - 1 ∧
    s.delayTick.out = if s.DT.toNat = 1 then some .delayZero else none := by
  rcases timer_cases s.DT with h | h | ⟨h0, h1, hn, hsub⟩
  · simp [State.delayTick, h, hout]
  · simp [State.delayTick, h]
  · rw [State.delayTick, if_neg h0, if_neg h1, if_neg hn]
    exact ⟨hsub, hout⟩

/-- R52: a SoundTick counts ST down to 0 and says when it gets there. -/
theorem soundTick_spec {s : State} (hout : s.out = none) : s.soundTick.ST.toNat = s.ST.toNat - 1 ∧
    s.soundTick.out = if s.ST.toNat = 1 then some .soundZero else none := by
  rcases timer_cases s.ST with h | h | ⟨h0, h1, hn, hsub⟩
  · simp [State.soundTick, h, hout]
  · simp [State.soundTick, h]
  · rw [State.soundTick, if_neg h0, if_neg h1, if_neg hn]
    exact ⟨hsub, hout⟩

/-- Settles O14, one timer a clause. -/
theorem ticksCountDownOneTimer : Obligations.TicksCountDownOneTimer := fun _ _ =>
  ⟨fun hi => ⟨_, step_deliver hi, State.delayTick_eq _, delayTick_spec rfl⟩,
    fun hi => ⟨_, step_deliver hi, State.soundTick_eq _, soundTick_spec rfl⟩⟩

/-- R53: a press while AwaitingKey writes the waiting register and ends the wait. -/
theorem keyEvent_press {s : State} (h : s.wait.valid = true) (k : Key) : s.keyEvent k true =
    ((s.writeK k true).writeV s.wait.reg (BitVec.ofNat 8 k.val)).setWait { s.wait with valid := false } := by
  simp [State.keyEvent, h]

/-- R53: any other event of the keypad writes its cell only. -/
theorem keyEvent_of_not_wakes {s : State} {p : Bool} (h : ¬(s.wait.valid = true ∧ p = true)) (k : Key) :
    s.keyEvent k p = s.writeK k p := by
  rw [← Bool.and_eq_true_iff] at h
  exact if_neg h

/-- Settles O16, by whether the event wakes the machine. -/
theorem keyEventWritesCellAndWakes : Obligations.KeyEventWritesCellAndWakes := by
  intro s k p es hi
  have hstep := step_deliver hi
  refine ⟨_, hstep, State.keyEvent_eq _ k p, ?_⟩
  by_cases hw : s.wait.valid = true ∧ p = true
  · obtain ⟨hv, rfl⟩ := hw
    rw [keyEvent_press (s := (s.setOut none).setInbox es) hv]
    refine ⟨fun q => State.readK_writeK _ k q true, fun r => ?_, by simp, rfl⟩
    rw [State.setWait_readV, State.readV_writeV]
    by_cases hr : r = s.wait.reg
    · have hk : k.val % 256 = k.val := by omega
      simp [hr, hv, hk]
    · simp [hr]
  · rw [keyEvent_of_not_wakes (s := (s.setOut none).setInbox es) hw]
    refine ⟨fun q => State.readK_writeK _ k q p, fun r => ?_, ?_, rfl⟩
    · rw [if_neg fun h => hw ⟨h.1, h.2.1⟩]
      rfl
    · cases p with
      | false => simp
      | true =>
        have hv : s.wait.valid = false := by simpa using hw
        simp [hv]

end Sys2Proof.Machine
end

section
/-! ## Memory (20_memory.md)

A canonical memory is determined by its bytes: its cells are exactly the addresses whose byte differs from the reset
contents, in rising order. The checked primitives answer by range; FX55 reads back as the registers it stored. -/

namespace Sys2Proof.Machine

/-! ### The canonical form -/

theorem rising_iff_pairwise {l : List Nat} : rising l = true ↔ l.Pairwise (· < ·) := by
  induction l with
  | nil => simp [rising]
  | cons a l ih => rw [rising_cons, List.pairwise_cons, ih]

namespace Memory

variable {c : Config} {m n : Memory}

/-- The cells of a canonical memory are sorted by their addresses. -/
theorem pairwise_of_wf (hm : m.wf c = true) : m.Pairwise (InvImage (· < ·) Prod.fst) :=
  (List.pairwise_map (f := Prod.fst)).1 (rising_iff_pairwise.1 (wf_iff.1 hm).1)

/-- A canonical memory lists exactly the bytes that differ from their reset contents. -/
theorem mem_iff_of_wf (hm : m.wf c = true) {x : Host.Cell} :
    x ∈ m ↔ m.read c x.1 = x.2 ∧ x.2 ≠ c.initByte x.1 := by
  obtain ⟨hrising, hcells⟩ := wf_iff.1 hm
  constructor
  · intro hx
    exact ⟨read_of_mem hrising hx, (hcells x hx).2⟩
  · rintro ⟨hread, hne⟩
    have hlisted := listed_of_read_ne (hread.symm ▸ hne)
    rwa [hread] at hlisted

theorem eq_of_read (hm : m.wf c = true) (hn : n.wf c = true) (h : ∀ a, m.read c a = n.read c a) : m = n :=
  (pairwise_of_wf hm).eq_of_mem_iff (pairwise_of_wf hn) fun x => by
    rw [mem_iff_of_wf hm, mem_iff_of_wf hn, h]

end Memory

/-- Settles O57: sorted lists with the same cells are equal, and the bytes determine the cells. -/
theorem canonicalMemoriesWithSameBytesAreEqual : Obligations.CanonicalMemoriesWithSameBytesAreEqual :=
  fun _ _ _ => Memory.eq_of_read

/-! ### The checked primitives -/

namespace State

variable {s : State} {a : Nat}

theorem load8_ok (h : a < s.cfg.memSize) : s.load8 a = .ok (s.peek a) := if_pos h

theorem load8_error (h : s.cfg.memSize ≤ a) : s.load8 a = .error a := if_neg (Nat.not_lt.2 h)

theorem load16_error (h : s.cfg.memSize ≤ a + 1) :
    s.load16 a = .error (if s.cfg.memSize ≤ a then a else a + 1) := if_neg (Nat.not_lt.2 h)

theorem store8_ok (h : a < s.cfg.memSize) (v : Byte) : s.store8 a v = .ok (s.poke a v) := if_pos h

theorem store8_error (h : s.cfg.memSize ≤ a) (v : Byte) : s.store8 a v = .error a := if_neg (Nat.not_lt.2 h)

theorem poke_keepsMemOutside (s : State) (a : Nat) (v : Byte) : KeepsMemOutside a 1 s (s.poke a v) :=
  fun _ hb => s.peek_poke_ne v (by omega)

end State

/-- Settles O56, by what each primitive answers and what a byte write leaves unchanged. -/
theorem memoryPrimitives : Obligations.MemoryPrimitives := by
  intro s a v hm
  have hrising := (Memory.wf_iff.1 hm).1
  refine ⟨State.load8_ok, State.load8_error, fun h => ?_, State.load16_error, fun h => ?_,
    fun h => State.store8_error h v⟩
  · exact ⟨_, s.load16_ok h, toNat_ofBytes _ _⟩
  · exact ⟨_, State.store8_ok h v, rfl, s.peek_poke_same hrising a v, s.poke_keepsMemOutside a v⟩

/-! ### Bytes stored by FX55 -/

/-- Byte `j` that FX55 stores is the register `j` it stores (R185). -/
theorem peek_effect_ldMiVx {s : State} (hm : s.mem.wf s.cfg = true) {x j : Reg} (h : j ≤ x) :
    (effect (.ldMiVx x) s).peek (s.I.toNat + j.val) = s.readV j := by
  have hlen : j.val < (s.readRegs 0 (x.val + 1)).length := by
    rw [State.length_readRegs]; exact Nat.lt_succ_of_le h
  calc (effect (.ldMiVx x) s).peek (s.I.toNat + j.val)
      = (s.pokeRange (s.ea 0) (s.readRegs 0 (x.val + 1))).peek (s.ea 0 + j.val) := effect_peek _ _ _
    _ = (s.readRegs 0 (x.val + 1))[j.val] := s.peek_pokeRange_inside (Memory.wf_iff.1 hm).1 _ _ hlen
    _ = s.readV j := by rw [State.getElem_readRegs]; simp

/-- Settles O37: `I` is where FX55 leaves pc, so the fetch reads the first two bytes stored. -/
theorem storedWordIsFetchedNext : Obligations.StoredWordIsFetchedNext := by
  intro x s hm hx hI hfit
  have hnoFault : faultOf (.ldMiVx x) s = none := boundsFault_eq_none.2 (.inr hfit)
  have hpc : (effect (.ldMiVx x) s).pc = s.I := by
    rw [hI]; exact (add_eq_ofNat s.pc 2).symm
  have hhi := peek_effect_ldMiVx hm (Fin.zero_le x)
  have hlo := peek_effect_ldMiVx hm (x := x) (j := 1) hx
  refine ⟨_, exec_of_noFault hnoFault, ?_⟩
  rw [State.fetch_ok, hpc]
  · exact congrArg Except.ok (congrArg₂ Word.ofBytes hhi hlo)
  · rw [hpc]
    exact Nat.lt_of_le_of_lt (Nat.add_le_add_left hx _) hfit

end Sys2Proof.Machine
end

section
/-! ## The opcode map, row by row (30_encoding.md R94) -/

namespace Sys2Proof.Laws.OpcodeRow

/-- The family as one statement: the word of every instruction holds the fixed digits of its row. -/
theorem every_row : ∀ i : Instr, Statement i
  | .cls => cls | .ret => ret | .sys nnn => sys nnn | .jp nnn => jp nnn | .call nnn => call nnn
  | .seVxNn x nn => seVxNn x nn | .sneVxNn x nn => sneVxNn x nn | .seVxVy x y => seVxVy x y
  | .ldVxNn x nn => ldVxNn x nn | .addVxNn x nn => addVxNn x nn | .ldVxVy x y => ldVxVy x y
  | .or x y => or x y | .and x y => and x y | .xor x y => xor x y | .addVxVy x y => addVxVy x y
  | .sub x y => sub x y | .shr x y => shr x y | .subn x y => subn x y | .shl x y => shl x y
  | .sneVxVy x y => sneVxVy x y | .ldINnn nnn => ldINnn nnn | .jpV0 nnn => jpV0 nnn | .rnd x nn => rnd x nn
  | .drw x y n => drw x y n | .skp x => skp x | .sknp x => sknp x | .ldVxDt x => ldVxDt x | .ldVxK x => ldVxK x
  | .ldDtVx x => ldDtVx x | .ldStVx x => ldStVx x | .addIVx x => addIVx x | .ldFVx x => ldFVx x
  | .ldBVx x => ldBVx x | .ldMiVx x => ldMiVx x | .ldVxMi x => ldVxMi x

end Sys2Proof.Laws.OpcodeRow
end

section
/-! ## The decoder and the encoder (30_encoding.md)

Decoding an encoded instruction reads back the fields its format wrote. In the other direction the decoder's answer carries
the word's own fields, so its word is the word decoded. The opcode map and the list of illegal words follow from the two. -/

namespace Sys2Proof

variable {w : Word} {i j : Instr}

/-! ### From the instruction to its word and back -/

theorem eq_fieldNNN_of_wordNNN_eq {op : Nibble} {nnn : Addr12} (h : wordNNN op nnn = w) : nnn = fieldNNN w := by
  rw [← h, fieldNNN_wordNNN]

/-- R98: a `SYS` that is no fixed word decodes as itself. -/
theorem decode0_sys {nnn : Addr12} (hcls : nnn ≠ 0x0E0#12) (hret : nnn ≠ 0x0EE#12) :
    decode0 (wordNNN 0x0#4 nnn) = .ok (.sys nnn) := by
  have hcls' : wordNNN 0x0#4 nnn ≠ 0x00E0#16 := fun h => hcls (eq_fieldNNN_of_wordNNN_eq h)
  have hret' : wordNNN 0x0#4 nnn ≠ 0x00EE#16 := fun h => hret (eq_fieldNNN_of_wordNNN_eq h)
  simp [decode0, hcls', hret']

/-- Settles O2, by the group of the opcode map the instruction is in. -/
theorem decodeEncodeIsIdentity : Obligations.DecodeEncodeIsIdentity := by
  intro i hi
  cases i with
  | cls | ret => rfl
  | sys nnn =>
    obtain ⟨hcls, hret⟩ : nnn ≠ 0x0E0#12 ∧ nnn ≠ 0x0EE#12 := by simpa [Instr.wf] using hi
    exact (decode_op0 (fieldOP_wordNNN _ _)).trans (decode0_sys hcls hret)
  | jp _ | call _ | seVxNn _ _ | sneVxNn _ _ | seVxVy _ _ | ldVxNn _ _ | addVxNn _ _ | sneVxVy _ _ | ldINnn _ | jpV0 _
  | rnd _ _ | drw _ _ _ => simp [encode, decode]
  | ldVxVy _ _ | or _ _ | and _ _ | xor _ _ | addVxVy _ _ | sub _ _ | shr _ _ | subn _ _ | shl _ _ =>
    simp [encode, decode_op8, decode8]
  | skp _ | sknp _ => simp [encode, decode_opE, decodeE]
  | ldVxDt _ | ldVxK _ | ldDtVx _ | ldStVx _ | addIVx _ | ldFVx _ | ldBVx _ | ldMiVx _ | ldVxMi _ =>
    simp [encode, decode_opF, decodeF]

/-! ### From the word to its instruction and back -/

theorem wordNNN_of_fieldOP {op : Nibble} (hop : fieldOP w = op) : wordNNN op (fieldNNN w) = w :=
  hop ▸ wordNNN_fields w

theorem wordXNN_of_fieldOP {op : Nibble} (hop : fieldOP w = op) : wordXNN op (fieldX w) (fieldNN w) = w :=
  hop ▸ wordXNN_fields w

theorem wordXNN_of_fields {op : Nibble} {nn : Byte} (hop : fieldOP w = op) (hnn : fieldNN w = nn) :
    wordXNN op (fieldX w) nn = w := hnn ▸ wordXNN_of_fieldOP hop

theorem wordXYN_of_fieldOP {op : Nibble} (hop : fieldOP w = op) : wordXYN op (fieldX w) (fieldY w) (fieldN w) = w :=
  hop ▸ wordXYN_fields w

theorem wordXYN_of_fields {op n : Nibble} (hop : fieldOP w = op) (hn : fieldN w = n) :
    wordXYN op (fieldX w) (fieldY w) n = w := hn ▸ wordXYN_of_fieldOP hop

/-- An instruction the decoder answers for `w` is well-formed, and `w` is its word. -/
def RoundTrips (w : Word) (answer : Except Reject Instr) : Prop :=
  ∀ i, answer = .ok i → encode i = w ∧ i.wf = true

namespace RoundTrips

theorem ok (hword : encode i = w) (hwf : i.wf = true) : RoundTrips w (.ok i) := by
  intro j h
  cases h
  exact ⟨hword, hwf⟩

theorem error {r : Reject} : RoundTrips w (.error r) := fun _ h => nomatch h

theorem ite {c : Prop} [Decidable c] {a b : Except Reject Instr} (ha : c → RoundTrips w a) (hb : ¬c → RoundTrips w b) :
    RoundTrips w (if c then a else b) := by
  split
  · next h => exact ha h
  · next h => exact hb h

end RoundTrips

theorem roundTrips_decode0 (hop : fieldOP w = 0x0#4) : RoundTrips w (decode0 w) := by
  have hword : encode (.sys (fieldNNN w)) = w := wordNNN_of_fieldOP hop
  refine .ite (fun h => .ok h.symm rfl) fun hcls => .ite (fun h => .ok h.symm rfl) fun hret => .ok hword ?_
  have hcls' : fieldNNN w ≠ 0x0E0#12 := fun h => hcls (by rw [← hword, h]; rfl)
  have hret' : fieldNNN w ≠ 0x0EE#12 := fun h => hret (by rw [← hword, h]; rfl)
  simp [Instr.wf, hcls', hret']

theorem roundTrips_decode8 (hop : fieldOP w = 0x8#4) : RoundTrips w (decode8 w) := by
  unfold decode8
  repeat refine .ite (fun hn => .ok (wordXYN_of_fields hop hn) rfl) fun _ => ?_
  exact .error

theorem roundTrips_decodeE (hop : fieldOP w = 0xE#4) : RoundTrips w (decodeE w) := by
  unfold decodeE
  repeat refine .ite (fun hnn => .ok (wordXNN_of_fields hop hnn) rfl) fun _ => ?_
  exact .error

theorem roundTrips_decodeF (hop : fieldOP w = 0xF#4) : RoundTrips w (decodeF w) := by
  unfold decodeF
  repeat refine .ite (fun hnn => .ok (wordXNN_of_fields hop hnn) rfl) fun _ => ?_
  exact .error

/-- Settles O3, by the opcode nibble: each answer is built from the word's own fields. -/
theorem encodeDecodeIsIdentity : Obligations.EncodeDecodeIsIdentity := by
  intro w
  show RoundTrips w (decode w)
  rcases nibble_cases (fieldOP w) with
    h | h | h | h | h | h | h | h | h | h | h | h | h | h | h | h
  · rw [decode_op0 h]; exact roundTrips_decode0 h
  · rw [decode_op1 h]; exact .ok (wordNNN_of_fieldOP h) rfl
  · rw [decode_op2 h]; exact .ok (wordNNN_of_fieldOP h) rfl
  · rw [decode_op3 h]; exact .ok (wordXNN_of_fieldOP h) rfl
  · rw [decode_op4 h]; exact .ok (wordXNN_of_fieldOP h) rfl
  · rw [decode_op5 h]; exact .ite (fun hn => .ok (wordXYN_of_fields h hn) rfl) fun _ => .error
  · rw [decode_op6 h]; exact .ok (wordXNN_of_fieldOP h) rfl
  · rw [decode_op7 h]; exact .ok (wordXNN_of_fieldOP h) rfl
  · rw [decode_op8 h]; exact roundTrips_decode8 h
  · rw [decode_op9 h]; exact .ite (fun hn => .ok (wordXYN_of_fields h hn) rfl) fun _ => .error
  · rw [decode_opA h]; exact .ok (wordNNN_of_fieldOP h) rfl
  · rw [decode_opB h]; exact .ok (wordNNN_of_fieldOP h) rfl
  · rw [decode_opC h]; exact .ok (wordXNN_of_fieldOP h) rfl
  · rw [decode_opD h]; exact .ok (wordXYN_of_fieldOP h) rfl
  · rw [decode_opE h]; exact roundTrips_decodeE h
  · rw [decode_opF h]; exact roundTrips_decodeF h

/-! ### The opcode map (R94) -/

/-- Two words that agree under a mask agree on every field the mask covers. -/
theorem extractLsb'_of_and_eq {v w m : Word} {start len : Nat} (h : v &&& m = w &&& m)
    (hm : m.extractLsb' start len = BitVec.allOnes len) : v.extractLsb' start len = w.extractLsb' start len := by
  have hfield := congrArg (BitVec.extractLsb' start len) h
  rwa [BitVec.extractLsb'_and, BitVec.extractLsb'_and, hm, BitVec.and_allOnes, BitVec.and_allOnes] at hfield

/-- A word in the row of `j` agrees with the word of `j` under the row's mask. -/
theorem and_opcodeMask_of_match (h : w &&& opcodeMask j = opcodeMatch j) :
    w &&& opcodeMask j = encode j &&& opcodeMask j := h.trans (Laws.OpcodeRow.every_row j).symm

theorem fieldOP_opcodeMask (i : Instr) : fieldOP (opcodeMask i) = 0xF#4 := by
  unfold opcodeMask
  split <;> rfl

theorem fieldOP_of_match (h : w &&& opcodeMask j = opcodeMatch j) : fieldOP w = fieldOP (encode j) :=
  extractLsb'_of_and_eq (and_opcodeMask_of_match h) (fieldOP_opcodeMask j)

theorem fieldN_of_match (h : w &&& opcodeMask j = opcodeMatch j) (hm : opcodeMask j = 0xF00F#16) :
    fieldN w = fieldN (encode j) :=
  extractLsb'_of_and_eq (and_opcodeMask_of_match h) (by rw [hm]; rfl)

theorem fieldNN_of_match (h : w &&& opcodeMask j = opcodeMatch j) (hm : opcodeMask j = 0xF0FF#16) :
    fieldNN w = fieldNN (encode j) :=
  extractLsb'_of_and_eq (and_opcodeMask_of_match h) (by rw [hm]; rfl)

/-- Every word with opcode nibble 0 is an instruction. -/
theorem decode0_answers (w : Word) : ∃ i, decode0 w = .ok i := by
  unfold decode0
  split_ifs <;> exact ⟨_, rfl⟩

/-- A word in some row of the opcode map decodes. -/
theorem decode_answers_of_match (h : w &&& opcodeMask j = opcodeMatch j) : ∃ i, decode w = .ok i := by
  have hop := fieldOP_of_match h
  cases j with
  | cls | ret =>
    rw [decode_op0 hop]
    exact decode0_answers w
  | sys nnn =>
    rw [decode_op0 (hop.trans (fieldOP_wordNNN _ _))]
    exact decode0_answers w
  | jp _ | call _ | seVxNn _ _ | sneVxNn _ _ | ldVxNn _ _ | addVxNn _ _ | ldINnn _ | jpV0 _ | rnd _ _ | drw _ _ _ =>
    simp [decode, hop, encode]
  | seVxVy _ _ | sneVxVy _ _ | ldVxVy _ _ | or _ _ | and _ _ | xor _ _ | addVxVy _ _ | sub _ _ | shr _ _ | subn _ _
  | shl _ _ =>
    have hn := fieldN_of_match h rfl
    simp [decode, decode8, hop, hn, encode]
  | skp _ | sknp _ | ldVxDt _ | ldVxK _ | ldDtVx _ | ldStVx _ | addIVx _ | ldFVx _ | ldBVx _ | ldMiVx _ | ldVxMi _ =>
    have hnn := fieldNN_of_match h rfl
    simp [decode, decodeE, decodeF, hop, hnn, encode]

/-- Settles O4: a decoded word is the word of its instruction, and the fixed digits of a row are all the decoder tests. -/
theorem decodeAgreesWithOpcodeMap : Obligations.DecodeAgreesWithOpcodeMap := by
  intro w
  have hrow : ∀ i, decode w = .ok i → w &&& opcodeMask i = opcodeMatch i := fun i h => by
    obtain ⟨rfl, -⟩ := encodeDecodeIsIdentity w i h
    exact Laws.OpcodeRow.every_row i
  exact ⟨hrow, fun ⟨i, h⟩ => ⟨i, hrow i h⟩, fun ⟨_, h⟩ => decode_answers_of_match h⟩

/-! ### The illegal words (R97) -/

theorem decode0_ne_error (w : Word) (r : Reject) : decode0 w ≠ .error r := by
  obtain ⟨i, h⟩ := decode0_answers w
  simp [h]

theorem decode8_eq_error_iff : decode8 w = .error (.badInstruction w) ↔
    (8 ≤ (fieldN w).toNat ∧ (fieldN w).toNat ≤ 13) ∨ fieldN w = 0xF#4 := by
  rcases nibble_cases (fieldN w) with
    h | h | h | h | h | h | h | h | h | h | h | h | h | h | h | h <;> simp [decode8, h]

theorem decodeE_eq_error_iff : decodeE w = .error (.badInstruction w) ↔ fieldNN w ∉ ([0x9E, 0xA1] : List Byte) := by
  unfold decodeE
  split_ifs <;> simp [*]

theorem decodeF_eq_error_iff : decodeF w = .error (.badInstruction w) ↔
    fieldNN w ∉ ([0x07, 0x0A, 0x15, 0x18, 0x1E, 0x29, 0x33, 0x55, 0x65] : List Byte) := by
  unfold decodeF
  split_ifs <;> simp [*]

/-- Settles O5, by the opcode nibble: only the nibbles 5, 8, 9, E and F have digits that select no row. -/
theorem illegalWordsAreExactlyTheListed : Obligations.IllegalWordsAreExactlyTheListed := by
  intro w
  rw [← decode8_eq_error_iff, ← decodeE_eq_error_iff, ← decodeF_eq_error_iff]
  rcases nibble_cases (fieldOP w) with
    h | h | h | h | h | h | h | h | h | h | h | h | h | h | h | h <;> simp [decode, h, decode0_ne_error]

/-- Settles O1, by evaluation of the decoder on each word. -/
theorem specWordsDecodeAsWritten : Obligations.SpecWordsDecodeAsWritten := by
  unfold Obligations.SpecWordsDecodeAsWritten
  decide

end Sys2Proof
end

section
/-! ## Arithmetic and logic (42_load_alu.md)

Each instruction writes VX, or VX and VF in the order `VF_ORDER` names, and advances pc: one lemma for each of the two
shapes, then one arithmetic fact for each result and flag. -/

namespace Sys2Proof.Machine

/-! ### One register written -/

theorem keepsRegsBut_writeV (s : State) (x : Reg) (v : Byte) : KeepsRegsBut [x] s (s.writeV x v).advance :=
  fun _ hr => s.readV_writeV_ne v (by simpa using hr)

theorem readV_writeV_advance (s : State) (x : Reg) (v : Byte) : (s.writeV x v).advance.readV x = v :=
  s.readV_writeV_same x v

/-- Settles O26: the one register written receives the bitwise result. -/
theorem logicIsBitwise : Obligations.LogicIsBitwise := by
  intro x y s
  refine ⟨decodeEncodeIsIdentity (.or x y) rfl, decodeEncodeIsIdentity (.and x y) rfl,
    decodeEncodeIsIdentity (.xor x y) rfl, ?_, ?_, ?_⟩
  · exact ⟨_, rfl, rfl, rfl, keepsRegsBut_writeV s x _, fun b => by rw [readV_writeV_advance, BitVec.getLsbD_or]⟩
  · exact ⟨_, rfl, rfl, rfl, keepsRegsBut_writeV s x _, fun b => by rw [readV_writeV_advance, BitVec.getLsbD_and]⟩
  · exact ⟨_, rfl, rfl, rfl, keepsRegsBut_writeV s x _, fun b => by rw [readV_writeV_advance, BitVec.getLsbD_xor]⟩

/-! ### A result and a flag written -/

theorem toNat_flagByte (b : Bool) : (flagByte b).toNat = if b then 1 else 0 := by
  cases b <;> rfl

/-- R23: a result and a flag written in the order `VF_ORDER` names, and pc advanced. -/
theorem resultAndFlag_writeResultFlag (s : State) (x : Reg) {v : Byte} {f : Bool} {result : Nat} {flag : Prop}
    [Decidable flag] (hv : v.toNat = result) (hf : f = decide flag) :
    ResultAndFlag s (s.writeResultFlag x v f).advance x result flag := by
  have hflag : (flagByte f).toNat = if flag then 1 else 0 := by simp [toNat_flagByte, hf]
  refine ⟨?_, ?_, fun r hr => ?_, ?_, ?_⟩
  · rw [s.writeResultFlag_eq]; rfl
  · rw [s.writeResultFlag_eq]; rfl
  · obtain ⟨hx, hvf⟩ : r ≠ x ∧ r ≠ Reg.vf := by simpa using hr
    exact (s.readV_writeResultFlag x r v f).trans (by simp [hx, hvf])
  · rw [State.advance, State.setPc_readV, s.readV_writeResultFlag x x v f]
    by_cases hx : x = Reg.vf <;> cases s.cfg.vfOrder <;> simp [hx, hflag, hv]
  · rw [State.advance, State.setPc_readV, s.readV_writeResultFlag x Reg.vf v f]
    by_cases hx : x = Reg.vf <;> cases s.cfg.vfOrder <;> simp [hx, hflag, hv]

/-! ### Sum and difference -/

theorem toNat_sub_byte (a b : Byte) : (a - b).toNat = (a.toNat + 256 - b.toNat) % 256 := by
  bv_omega

/-- Settles O27: the bytes' sum is reduced mod 256 and the flag compares the unreduced one. -/
theorem addRegisterSetsCarry : Obligations.AddRegisterSetsCarry := fun x y s =>
  ⟨decodeEncodeIsIdentity (.addVxVy x y) rfl, _, rfl, resultAndFlag_writeResultFlag s x (BitVec.toNat_add _ _) rfl⟩

/-- Settles O28: SUBN is SUB with the operands exchanged. -/
theorem subtractSetsNotBorrow : Obligations.SubtractSetsNotBorrow := fun x y s =>
  ⟨decodeEncodeIsIdentity (.sub x y) rfl, decodeEncodeIsIdentity (.subn x y) rfl,
    ⟨_, rfl, resultAndFlag_writeResultFlag s x (toNat_sub_byte _ _) rfl⟩,
    ⟨_, rfl, resultAndFlag_writeResultFlag s x (toNat_sub_byte _ _) rfl⟩⟩

/-! ### Shifts -/

theorem shiftOperand_eq (c : Config) (x y : Reg) : shiftOperand c x y = if c.shiftSrc = .vx then x else y := by
  cases h : c.shiftSrc <;> simp [shiftOperand, h]

theorem toNat_shr_one (v : Byte) : (v >>> 1).toNat = v.toNat / 2 := by
  rw [BitVec.toNat_ushiftRight, Nat.shiftRight_one]

theorem toNat_shl_one (v : Byte) : (v <<< 1).toNat = 2 * v.toNat % 256 := by
  rw [BitVec.toNat_shiftLeft, Nat.shiftLeft_eq, Nat.mul_comm]

theorem lsbFlag_eq (v : Byte) : lsbFlag v = decide (v.toNat % 2 = 1) := by
  simp [lsbFlag, BitVec.getLsbD]

theorem msbFlag_eq (v : Byte) : msbFlag v = decide (128 ≤ v.toNat) :=
  BitVec.msb_eq_decide v

/-- Settles O29, by the numbers each shift and the bit it drops are. -/
theorem shiftsMoveOneBit : Obligations.ShiftsMoveOneBit := by
  intro x y s v hv
  rw [← shiftOperand_eq] at hv
  subst hv
  exact ⟨decodeEncodeIsIdentity (.shr x y) rfl, decodeEncodeIsIdentity (.shl x y) rfl,
    ⟨_, rfl, resultAndFlag_writeResultFlag s x (toNat_shr_one _) (lsbFlag_eq _)⟩,
    ⟨_, rfl, resultAndFlag_writeResultFlag s x (toNat_shl_one _) (msbFlag_eq _)⟩⟩

end Sys2Proof.Machine
end

section
/-! ## Control transfer (40_flow.md)

Each instruction's decoding, next state and fault come from the laws above: `decodeEncodeIsIdentity`, `effect` and `faultOf`.
The invariant on return addresses and pc is proved over those, so it visits the instructions only where they write the stack or
pc. -/

namespace Sys2Proof.Machine

variable {i : Instr} {s t u : State}

/-! ### The end of an instruction: pc, or the latch -/

theorem toNat_effect_pc (i : Instr) (s : State) : (effect i s).pc.toNat = netPc i s :=
  (BitVec.toNat_ofNat ..).trans (Nat.mod_eq_of_lt netPc_lt)

/-- The address a range check records fits the latch, whatever `MEM_SIZE` is: the range starts at a 16-bit `I`. -/
theorem boundsFault_info_lt {n info : Nat} {c : Cause} (hn : n ≤ 16) (h : boundsFault s n = some (c, info)) :
    info < 2 ^ 17 := by
  obtain ⟨⟨-, hpast⟩, rfl⟩ := s.rangeFault_eq_some.1 (rangeFault_of_boundsFault_eq_some h).2
  have hI := s.I.isLt
  omega

/-- Every value a fault records fits the 17 bits of the latch (R41). -/
theorem faultOf_info_lt {c : Cause} {info : Nat} (h : faultOf i s = some (c, info)) : info < 2 ^ 17 := by
  unfold faultOf at h
  split at h
  case h_1 | h_2 | h_7 | h_8 =>
    obtain ⟨-, -, rfl⟩ : _ ∧ _ ∧ _ := by simpa [eq_comm] using h
    omega
  case h_3 n => exact boundsFault_info_lt (Nat.le_of_lt n.isLt) h
  case h_4 => exact boundsFault_info_lt (by decide) h
  case h_5 x | h_6 x => exact boundsFault_info_lt x.isLt h
  case h_9 => cases h

theorem faultsWith_of_faultOf {c : Cause} {info : Nat} (h : faultOf i s = some (c, info)) : FaultsWith i s c info :=
  ⟨_, exec_of_fault h, rfl, rfl, rfl, (BitVec.toNat_ofNat ..).trans (Nat.mod_eq_of_lt (faultOf_info_lt h))⟩

/-! ### Return addresses and pc (R27, R121) -/

theorem returnsFetchable_iff : s.returnsFetchable = true ↔
    ∀ j < s.sp, (stackRead s.stack j).toNat + 1 < s.cfg.memSize := by
  simp [State.returnsFetchable]

/-- A call pushes the address it was fetched at, and nothing else adds a return address. -/
theorem returnsFetchable_effect (hs : s.returnsFetchable = true) (hpc : s.pc.toNat + 1 < s.cfg.memSize) (i : Instr) :
    (effect i s).returnsFetchable = true := by
  rw [returnsFetchable_iff] at hs ⊢
  intro j hj
  cases i with
  | call nnn =>
    have hread : stackRead (effect (.call nnn) s).stack j = if j = s.sp then s.pc else stackRead s.stack j :=
      stackRead_write ..
    rw [hread]
    split
    · exact hpc
    · next hne => exact hs j (Nat.lt_of_le_of_ne (Nat.le_of_lt_succ hj) hne)
  | ret => exact hs j (Nat.lt_of_lt_of_le hj (Nat.sub_le ..))
  | _ => exact hs j hj

theorem skipTarget_le (a : Nat) (b : Bool) : (a + if b then 4 else 2) % 65536 ≤ a + 4 :=
  Nat.le_trans (Nat.mod_le ..) (by cases b <;> simp)

/-- The largest pc is BNNN's `0xFFF + 0xFF`: a return goes two past a fetchable word, and every other instruction at most
four past its own. -/
theorem netPc_le (hm : s.cfg.memSize = 4096) (hs : s.returnsFetchable = true) (hpc : s.pc.toNat + 1 < s.cfg.memSize)
    (hf : faultOf i s = none) : netPc i s ≤ 0x10FE := by
  cases i with
  | jp nnn | call nnn => exact Nat.le_trans (Nat.le_of_lt nnn.isLt) (by decide)
  | jpV0 nnn =>
    have hnnn := nnn.isLt
    have hv0 := (s.readV 0).isLt
    simp only [netPc]
    omega
  | ret =>
    have hsp : s.sp ≠ 0 := by simpa [faultOf] using hf
    have htop := returnsFetchable_iff.1 hs (s.sp - 1) (by omega)
    simp only [netPc]
    omega
  | seVxNn _ _ | sneVxNn _ _ | seVxVy _ _ | sneVxVy _ _ | skp _ | sknp _ =>
    exact Nat.le_trans (skipTarget_le ..) (by omega)
  | _ => simp only [netPc]; omega

/-- The invariant of the standard configuration. -/
def FlowInRange (s : State) : Prop := s.returnsFetchable = true ∧ s.pc.toNat ≤ 0x10FE

theorem flowInRange_exec (hm : s.cfg.memSize = 4096) (hs : FlowInRange s) (hpc : s.pc.toNat + 1 < s.cfg.memSize)
    (h : exec i s = .next t) : FlowInRange t := by
  rcases exec_cases h with ⟨c, info, -, rfl⟩ | ⟨hf, rfl⟩
  · exact hs
  · exact ⟨returnsFetchable_effect hs.1 hpc i, toNat_effect_pc i s ▸ netPc_le hm hs.1 hpc hf⟩

theorem flowInRange_cycle (hm : s.cfg.memSize = 4096) (hs : FlowInRange s) (h : s.cycle = .next t) : FlowInRange t := by
  rcases cycle_cases h with ⟨rfl, -⟩ | ⟨-, ⟨a, -, rfl⟩ | ⟨w, r, -, -, rfl⟩ | ⟨w, i, hfetch, -, h⟩⟩
  · exact hs
  · exact hs
  · exact hs
  · exact flowInRange_exec (s := s.setDirty false) hm hs (s.fetch_ok_iff.1 hfetch).1 h

theorem flowInRange_resetEvent (hc : s.cfg = Config.std) : FlowInRange s.resetEvent := by
  obtain ⟨-, -, hret, hpc⟩ := resetMeetsTheInvariants
  rw [State.resetEvent, hc]
  exact ⟨hret, hpc⟩

/-- Settles O59: a Cycle keeps the invariant because what it executes was fetched, Reset establishes it, and the other
events write neither stack nor pc. -/
theorem stepKeepsReturnAddressesAndPcInRange : Obligations.StepKeepsReturnAddressesAndPcInRange := by
  intro s t hc hret hpc h
  have hs : FlowInRange s := ⟨hret, hpc⟩
  have hm : s.cfg.memSize = 4096 := congrArg Config.memSize hc
  show FlowInRange t
  rcases step_cases h with ⟨-, h⟩ | ⟨r, es, -, h⟩ | ⟨es, -, rfl⟩ | ⟨b, es, -, rfl⟩ | ⟨es, -, rfl⟩ | ⟨es, -, rfl⟩ |
    ⟨k, p, es, -, rfl⟩
  · exact flowInRange_cycle (s := ((s.setOut none).setRndIn none).setDraws (s.draws + 1)) hm hs h
  · exact flowInRange_cycle (s := ((s.setOut none).setInbox es).setRndIn (some r)) hm hs h
  · exact flowInRange_resetEvent (s := (s.setOut none).setInbox es) hc
  · rw [State.romLoad_eq]; exact hs
  · rw [State.delayTick_eq]; exact hs
  · rw [State.soundTick_eq]; exact hs
  · rw [State.keyEvent_eq]; exact hs

/-! ### The five control transfers -/

/-- Settles O19: the popped cell is the call's own address. -/
theorem retPopsAndResumesAfterCall : Obligations.RetPopsAndResumesAfterCall :=
  ⟨decodeEncodeIsIdentity .ret rfl, fun s =>
    ⟨fun hsp => ⟨_, exec_of_noFault (if_neg hsp), rfl, toNat_effect_pc .ret s⟩,
      fun hsp => faultsWith_of_faultOf (if_pos hsp)⟩⟩

/-- Settles O20: `SYS` is what the two fixed words leave of opcode nibble 0. -/
theorem sysAndJpWriteOnlyPc : Obligations.SysAndJpWriteOnlyPc := fun nnn s =>
  ⟨fun hcls hret => decodeEncodeIsIdentity (.sys nnn) (by simp [Instr.wf, hcls, hret]), ⟨_, rfl, rfl, rfl⟩,
    decodeEncodeIsIdentity (.jp nnn) rfl, ⟨_, exec_of_noFault rfl, rfl, toNat_effect_pc (.jp nnn) s⟩⟩

/-- Settles O21: the push checks `sp` before it writes the cell. -/
theorem callPushesItsOwnAddress : Obligations.CallPushesItsOwnAddress := fun nnn s =>
  ⟨decodeEncodeIsIdentity (.call nnn) rfl,
    fun hsp => ⟨_, exec_of_noFault (if_neg hsp), rfl, toNat_effect_pc (.call nnn) s,
      fun j => stackRead_write s.stack s.sp j s.pc⟩,
    fun hsp => faultsWith_of_faultOf (if_pos hsp)⟩

/-- Settles O22: the sum of a 12-bit and an 8-bit number fits pc. -/
theorem jpV0AddsV0 : Obligations.JpV0AddsV0 := fun nnn s =>
  ⟨decodeEncodeIsIdentity (.jpV0 nnn) rfl, _, exec_of_noFault rfl, rfl, toNat_effect_pc (.jpV0 nnn) s⟩

/-! ### A jump to itself (R316) -/

theorem pc_of_takesCycle (h : TakesCycle s u) : u.pc = s.pc := by
  obtain ⟨-, rfl⟩ | ⟨r, es, -, rfl⟩ := h <;> rfl

/-- Settles O52: the one write of the jump is of the value pc holds. -/
theorem parkedMachineClearsOnlyDirty : Obligations.ParkedMachineClearsOnlyDirty := by
  rintro s u hr ⟨w, nnn, hfetch, hdecode, haddr⟩ hu
  have hself : addrOf nnn = u.pc := haddr.trans (pc_of_takesCycle hu).symm
  calc step s = exec (.jp nnn) (u.setDirty false) := step_exec hr hu hfetch hdecode
    _ = .next ((u.setDirty false).setPc (addrOf nnn)) := rfl
    _ = .next { u with dirty := false } := by rw [hself]; rfl

end Sys2Proof.Machine
end

section
/-! ## Register skips (41_skip.md): what `skipIf` makes of a test and of its negation (R140) -/

namespace Sys2Proof.Machine

theorem skipIf_decide (s : State) (p : Prop) [Decidable p] :
    s.skipIf (decide p) = { s with pc := s.pc + if p then 4 else 2 } := by
  by_cases h : p <;> simp [State.skipIf, State.setPc, h]

theorem skipIf_decide_not (s : State) (p : Prop) [Decidable p] :
    s.skipIf (decide ¬p) = { s with pc := s.pc + if p then 2 else 4 } := by
  rw [skipIf_decide, ite_not]

/-- Settles O24: each skip is `skipIf` of its test, which writes pc only. -/
theorem registerSkipsWriteOnlyPc : Obligations.RegisterSkipsWriteOnlyPc := fun x y nn s =>
  ⟨decodeEncodeIsIdentity (.seVxNn x nn) rfl, decodeEncodeIsIdentity (.sneVxNn x nn) rfl,
    decodeEncodeIsIdentity (.seVxVy x y) rfl, decodeEncodeIsIdentity (.sneVxVy x y) rfl,
    congrArg Host.Outcome.next (skipIf_decide s (s.readV x = nn)),
    congrArg Host.Outcome.next (skipIf_decide_not s (s.readV x = nn)),
    congrArg Host.Outcome.next (skipIf_decide s (s.readV x = s.readV y)),
    congrArg Host.Outcome.next (skipIf_decide_not s (s.readV x = s.readV y))⟩

end Sys2Proof.Machine
end

section
/-! ## Loads, immediate sum and random (42_load_alu.md R151 to R153, R162): one register written -/

namespace Sys2Proof.Machine

/-- Settles O25: the one register written receives the operand, or the sum of bytes, which is reduced mod 256. -/
theorem loadsAndAddImmediate : Obligations.LoadsAndAddImmediate := fun x y nn s =>
  ⟨decodeEncodeIsIdentity (.ldVxNn x nn) rfl, decodeEncodeIsIdentity (.addVxNn x nn) rfl,
    decodeEncodeIsIdentity (.ldVxVy x y) rfl,
    ⟨_, rfl, rfl, rfl, keepsRegsBut_writeV s x _, readV_writeV_advance s x _⟩,
    ⟨_, rfl, rfl, rfl, keepsRegsBut_writeV s x _, by rw [readV_writeV_advance, BitVec.toNat_add]⟩,
    ⟨_, rfl, rfl, rfl, keepsRegsBut_writeV s x _, readV_writeV_advance s x _⟩⟩

theorem rnd_of_rndIn {s : State} {r : Byte} (h : s.rndIn = some r) : s.rnd = r := by
  simp [State.rnd, h]

/-- Settles O30: the one register written receives the draw masked by NN, whatever the draw is. -/
theorem rndMasksTheDraw : Obligations.RndMasksTheDraw := fun x nn s =>
  ⟨decodeEncodeIsIdentity (.rnd x nn) rfl, _, rfl, rfl, rfl, keepsRegsBut_writeV s x _,
    fun r hr => by rw [readV_writeV_advance, rnd_of_rndIn hr],
    fun b hb => by rw [readV_writeV_advance, BitVec.getLsbD_and, hb, Bool.and_false]⟩

end Sys2Proof.Machine
end

section
/-! ## Which effects see the open parameters (R23, R159, R161; decisions D12, D13)

`SHIFT_SRC` is read by the shifts' operand alone and `VF_ORDER` by the writing of a result and a flag alone: every other
function of the state is the same whatever the two are, so the register file is the one field to be settled by cases. -/

namespace Sys2Proof.Machine

/-- `s` with the two open parameters set. -/
def State.withOpen (s : State) (src : ShiftSrc) (order : VfOrder) : State :=
  { s with cfg := { s.cfg with shiftSrc := src, vfOrder := order } }

section OpenParameters

variable {src : ShiftSrc} {order : VfOrder}

/-! ### Memory: what a cell reads as after Reset does not depend on the open parameters -/

theorem peek_withOpen (s : State) (a : Nat) : (s.withOpen src order).peek a = s.peek a := by
  show s.mem.read (s.withOpen src order).cfg a = s.mem.read s.cfg a
  induction s.mem with
  | nil => rfl
  | cons cell rest ih => exact congrArg (ite (a = cell.1) cell.2) ih

theorem poke_withOpen (s : State) (a : Nat) (v : Byte) :
    (s.withOpen src order).poke a v = (s.poke a v).withOpen src order := by
  have hwrite : s.mem.write (s.withOpen src order).cfg a v = s.mem.write s.cfg a v := by
    induction s.mem with
    | nil => rfl
    | cons cell rest ih => simp only [Memory.write, ih]; rfl
  exact congrArg (fun m => { s.withOpen src order with mem := m }) hwrite

theorem peekRange_withOpen (s : State) (a n : Nat) : (s.withOpen src order).peekRange a n = s.peekRange a n := by
  induction n generalizing a with
  | zero => rfl
  | succ n ih => simp only [State.peekRange, peek_withOpen, ih]

theorem mem_pokeRange_withOpen (s : State) (a : Nat) (vs : List Byte) :
    ((s.withOpen src order).pokeRange a vs).mem = (s.pokeRange a vs).mem := by
  induction vs generalizing s a with
  | nil => rfl
  | cons v vs ih =>
    rw [State.pokeRange, poke_withOpen]
    exact ih (s.poke a v) (a + 1)

/-! ### Registers -/

theorem readRegs_withOpen (s : State) (r n : Nat) : (s.withOpen src order).readRegs r n = s.readRegs r n := by
  induction n generalizing r with
  | zero => rfl
  | succ n ih => exact congrArg (s.readV _ :: ·) (ih (r + 1))

theorem V_writeRegs_withOpen (s : State) (r : Nat) (vs : List Byte) :
    ((s.withOpen src order).writeRegs r vs).V = (s.writeRegs r vs).V := by
  induction vs generalizing s r with
  | nil => rfl
  | cons v vs ih => exact ih (s.writeV _ v) (r + 1)

/-- The order of result and flag shows only when X = F (R23). -/
theorem V_writeResultFlag_withOpen {s : State} {x : Reg} (h : order = s.cfg.vfOrder ∨ x ≠ Reg.vf)
    (v : Byte) (f : Bool) :
    ((s.withOpen src order).writeResultFlag x v f).V = (s.writeResultFlag x v f).V := by
  refine State.V_ext fun q => ?_
  rw [State.readV_writeResultFlag, State.readV_writeResultFlag]
  rcases h with rfl | hx
  · rfl
  · simp only [hx, false_and]
    rfl

/-- The source of a shift shows only when X and Y differ (R159, R161). -/
theorem shiftOperand_withOpen {s : State} {x y : Reg} (h : src = s.cfg.shiftSrc ∨ x = y) :
    shiftOperand (s.withOpen src order).cfg x y = shiftOperand s.cfg x y := by
  rcases h with rfl | rfl
  · rfl
  · simp only [shiftOperand_eq, ite_self]

/-! ### The fields after an instruction -/

theorem drawnPoints_withOpen (x y : Reg) (n : Nibble) (s : State) :
    drawnPoints x y n (s.withOpen src order) = drawnPoints x y n s := by
  unfold drawnPoints
  rw [peekRange_withOpen]
  rfl

theorem mem_afterStores_withOpen (i : Instr) (s : State) :
    (afterStores i (s.withOpen src order)).mem = (afterStores i s).mem := by
  unfold afterStores
  split
  · exact mem_pokeRange_withOpen s _ _
  · rw [readRegs_withOpen]
    exact mem_pokeRange_withOpen s _ _
  · rfl

theorem fbAfter_withOpen (i : Instr) (s : State) : fbAfter i (s.withOpen src order) = fbAfter i s := by
  unfold fbAfter
  split
  · rfl
  · rw [drawnPoints_withOpen]
    rfl
  · rfl

theorem dirtyAfter_withOpen (i : Instr) (s : State) : dirtyAfter i (s.withOpen src order) = dirtyAfter i s := by
  unfold dirtyAfter
  split
  · rfl
  · rw [drawnPoints_withOpen]
    rfl
  · rfl

/-- Each of the two values is the state's own, or `i` is not an instruction that shows the parameter (D12, D13). -/
structure HidesOpen (i : Instr) (s : State) (src : ShiftSrc) (order : VfOrder) : Prop where
  shift : src = s.cfg.shiftSrc ∨ ∀ x y, (i = .shr x y ∨ i = .shl x y) → x = y
  flag : order = s.cfg.vfOrder ∨
    ∀ x y, (i = .addVxVy x y ∨ i = .sub x y ∨ i = .subn x y ∨ i = .shr x y ∨ i = .shl x y) → x ≠ Reg.vf

theorem V_afterRegWrites_withOpen {i : Instr} {s : State} (h : HidesOpen i s src order) :
    (afterRegWrites i (s.withOpen src order)).V = (afterRegWrites i s).V := by
  cases i with
  | addVxVy x y | sub x y | subn x y =>
    exact V_writeResultFlag_withOpen (h.flag.imp_right fun hf => hf x y (by simp)) _ _
  | shr x y | shl x y =>
    have hoperand := shiftOperand_withOpen (order := order) (h.shift.imp_right fun hs => hs x y (by simp))
    simp only [afterRegWrites, hoperand]
    exact V_writeResultFlag_withOpen (h.flag.imp_right fun hf => hf x y (by simp)) _ _
  | ldVxMi x =>
    simp only [afterRegWrites, peekRange_withOpen]
    exact V_writeRegs_withOpen s _ _
  | drw x y n =>
    simp only [afterRegWrites, drawnPoints_withOpen]
    rfl
  | _ => rfl

theorem effect_withOpen {i : Instr} {s : State} (h : HidesOpen i s src order) :
    effect i (s.withOpen src order) = (effect i s).withOpen src order := by
  unfold effect
  rw [V_afterRegWrites_withOpen h, mem_afterStores_withOpen, fbAfter_withOpen, dirtyAfter_withOpen]
  cases i <;> rfl

theorem faultOf_withOpen (i : Instr) (s : State) : faultOf i (s.withOpen src order) = faultOf i s := by
  cases i <;> rfl

/-- An instruction that does not show the change does the same with the open parameters set otherwise. -/
theorem exec_withOpen {i : Instr} {s t : State} (h : exec i s = .next t) (hopen : HidesOpen i s src order) :
    exec i (s.withOpen src order) = .next (t.withOpen src order) := by
  rcases exec_cases h with ⟨c, info, hf, rfl⟩ | ⟨hf, rfl⟩
  · exact exec_of_fault ((faultOf_withOpen i s).trans hf)
  · rw [exec_of_noFault ((faultOf_withOpen i s).trans hf), effect_withOpen hopen]

end OpenParameters

/-- Settles O54: one of the two parameters keeps the state's own value. -/
theorem openParametersMatterOnlyWhereStated : Obligations.OpenParametersMatterOnlyWhereStated := by
  intro i s t h
  obtain ⟨-, -, hcfg, -⟩ := screenAndPortsWrittenOnlyAsListed i s t h
  refine ⟨fun src hshift => ?_, fun order hflag => ?_⟩
  · exact (exec_withOpen h ⟨.inr hshift, .inl rfl⟩).trans (by rw [← hcfg]; rfl)
  · exact (exec_withOpen h ⟨.inl rfl, .inr hflag⟩).trans (by rw [← hcfg]; rfl)

end Sys2Proof.Machine
end

section
/-! ## Index register and memory transfer (43_index_memory.md)

A transfer whose range fits has its `effect`, any other the fault of `boundsFault`: one fact for each case, then what the bytes
and registers of the range are read back as. -/

namespace Sys2Proof.Machine

variable {i : Instr} {s : State} {x j : Reg}

/-! ### The index register written (R181 to R183) -/

/-- Settles O31: FX1E reads VX before it writes VF, and its flag compares the unreduced sum. -/
theorem indexLoadAndAdd : Obligations.IndexLoadAndAdd := by
  intro nnn x s
  refine ⟨decodeEncodeIsIdentity (.ldINnn nnn) rfl, decodeEncodeIsIdentity (.addIVx x) rfl,
    ⟨_, rfl, rfl, BitVec.toNat_setWidth_of_le (by decide)⟩, _, rfl, rfl,
    keepsRegsBut_writeV (s.setI _) Reg.vf _, BitVec.toNat_ofNat .., ?_⟩
  rw [readV_writeV_advance, toNat_flagByte, pastMemoryFlag]
  simp only [decide_eq_true_eq]

theorem toNat_glyphAddr (c : Config) (v : Byte) :
    (glyphAddr c v).toNat = (c.fontBase + v.toNat * c.glyphBytes) % 65536 :=
  BitVec.toNat_ofNat ..

/-- The glyph of any byte starts below 65536, so its address is not reduced (R183). -/
theorem toNat_glyphAddr_std (v : Byte) : (glyphAddr Config.std v).toNat = v.toNat * 5 := by
  have hv := v.isLt
  simp only [toNat_glyphAddr, Config.std]
  omega

/-- Settles O32: the whole byte is multiplied. -/
theorem glyphAddressIsFiveTimesVx : Obligations.GlyphAddressIsFiveTimesVx := fun x s =>
  ⟨decodeEncodeIsIdentity (.ldFVx x) rfl, _, rfl, rfl, toNat_glyphAddr s.cfg (s.readV x),
    fun hstd => (congrArg (fun c => (glyphAddr c (s.readV x)).toNat) hstd).trans (toNat_glyphAddr_std _)⟩

/-! ### What every transfer does (R70, R180) -/

theorem effect_pc_of_netPc (h : netPc i s = (s.pc.toNat + 2) % 65536) : (effect i s).pc = s.pc + 2 :=
  (congrArg (BitVec.ofNat 16) h).trans (add_eq_ofNat s.pc 2).symm

theorem effect_keepsMemOutside {lo n : Nat} (h : storeRange i s = some (lo, n)) :
    KeepsMemOutside lo n s (effect i s) := by
  intro a ha
  rw [effect_peek, peek_afterStores_outside]
  intro lo' n' h'
  cases h.symm.trans h'
  exact ha

/-- A range of at least one byte that does not end below `MEM_SIZE` faults at its first address out of range. -/
theorem boundsFault_of_le {n : Nat} (h : s.cfg.memSize ≤ s.I.toNat + n) :
    boundsFault s (n + 1) = some (.outOfBounds, max s.I.toNat s.cfg.memSize) :=
  if_pos ⟨n.succ_pos, Nat.lt_succ_of_le h⟩

theorem boundsFault_of_lt {n : Nat} (h : s.I.toNat + n < s.cfg.memSize) : boundsFault s (n + 1) = none :=
  boundsFault_eq_none.2 (.inr h)

/-! ### Decimal digits stored by FX33 -/

/-- The digits of a byte are bytes, so storing them loses nothing. -/
theorem map_toNat_bcdDigits (v : Byte) :
    (bcdDigits v).map BitVec.toNat = [v.toNat / 100, v.toNat / 10 % 10, v.toNat % 10] := by
  have hv := v.isLt
  simp only [bcdDigits, List.map_cons, List.map_nil, BitVec.toNat_ofNat, List.cons.injEq, and_true]
  omega

/-- Byte `n` that FX33 stores is digit `n` of VX (R184). -/
theorem toNat_peek_effect_ldBVx (hm : s.mem.wf s.cfg = true) (x : Reg) {n : Nat} (h : n < 3) :
    ((effect (.ldBVx x) s).peek (s.I.toNat + n)).toNat =
      [(s.readV x).toNat / 100, (s.readV x).toNat / 10 % 10, (s.readV x).toNat % 10][n]'h :=
  calc ((effect (.ldBVx x) s).peek (s.I.toNat + n)).toNat
      = ((s.pokeRange (s.ea 0) (bcdDigits (s.readV x))).peek (s.ea 0 + n)).toNat :=
        congrArg BitVec.toNat (effect_peek _ _ _)
    _ = ((bcdDigits (s.readV x))[n]'h).toNat :=
        congrArg BitVec.toNat (s.peek_pokeRange_inside (Memory.wf_iff.1 hm).1 _ _ h)
    _ = ((bcdDigits (s.readV x)).map BitVec.toNat)[n]'h := (List.getElem_map BitVec.toNat).symm
    _ = _ := by simp only [map_toNat_bcdDigits]

/-- Settles O33, by whether the three bytes fit; each stored byte is a digit. -/
theorem bcdStoresThreeDigits : Obligations.BcdStoresThreeDigits := by
  intro x s hm
  refine ⟨decodeEncodeIsIdentity (.ldBVx x) rfl, fun hfit => ?_, fun hpast => ?_⟩
  · have hpc : (effect (.ldBVx x) s).pc = s.pc + 2 := effect_pc_of_netPc rfl
    exact ⟨_, exec_of_noFault (boundsFault_of_lt hfit), by rw [← hpc]; rfl, effect_keepsMemOutside rfl,
      toNat_peek_effect_ldBVx hm x (n := 0) (by decide), toNat_peek_effect_ldBVx hm x (n := 1) (by decide),
      toNat_peek_effect_ldBVx hm x (n := 2) (by decide)⟩
  · exact faultsWith_of_faultOf (boundsFault_of_le hpast)

/-! ### Registers stored by FX55 and loaded by FX65 -/

/-- Settles O34, by whether the X + 1 bytes fit. -/
theorem bulkStoreWritesV0ToVx : Obligations.BulkStoreWritesV0ToVx := by
  intro x s hm
  refine ⟨decodeEncodeIsIdentity (.ldMiVx x) rfl, fun hfit => ?_, fun hpast => ?_⟩
  · have hpc : (effect (.ldMiVx x) s).pc = s.pc + 2 := effect_pc_of_netPc rfl
    exact ⟨_, exec_of_noFault (boundsFault_of_lt hfit), by rw [← hpc]; rfl, effect_keepsMemOutside rfl,
      fun j hj => peek_effect_ldMiVx hm hj⟩
  · exact faultsWith_of_faultOf (boundsFault_of_le hpast)

/-- Register `j` that FX65 loads is byte `j` at `I` (R186). -/
theorem readV_effect_ldVxMi (h : j ≤ x) : (effect (.ldVxMi x) s).readV j = s.peek (s.I.toNat + j.val) := by
  have hx := x.isLt
  have hlen : j.val < (s.peekRange (s.ea 0) (x.val + 1)).length := by
    rw [State.length_peekRange]; exact Nat.lt_succ_of_le h
  calc (effect (.ldVxMi x) s).readV j
      = (s.writeRegs 0 (s.peekRange (s.ea 0) (x.val + 1))).readV j := rfl
    _ = (s.peekRange (s.ea 0) (x.val + 1))[j.val] :=
      s.readV_writeRegs_inside 0 _ (by rw [State.length_peekRange]; omega) hlen (Nat.zero_add _).symm
    _ = s.peek (s.I.toNat + j.val) := s.getElem_peekRange _ _ hlen

theorem readV_effect_ldVxMi_above (h : ¬ j ≤ x) : (effect (.ldVxMi x) s).readV j = s.readV j :=
  readV_afterRegWrites_outside (i := .ldVxMi x) (decide_eq_false h)

/-- Settles O35, by whether the X + 1 bytes fit. -/
theorem bulkLoadReadsV0ToVx : Obligations.BulkLoadReadsV0ToVx := by
  intro x s
  refine ⟨decodeEncodeIsIdentity (.ldVxMi x) rfl, fun hfit => ?_, fun hpast => ?_⟩
  · refine ⟨_, exec_of_noFault (boundsFault_of_lt hfit), rfl, effect_pc_of_netPc rfl, fun j => ?_⟩
    split
    · next hj => exact readV_effect_ldVxMi hj
    · next hj => exact readV_effect_ldVxMi_above hj
  · exact faultsWith_of_faultOf (boundsFault_of_le hpast)

/-- Settles O36: the store keeps `I` and the parameters, so the load's range fits too and reads the bytes stored. -/
theorem bulkStoreThenLoadRestores : Obligations.BulkStoreThenLoadRestores := by
  intro x s v hm hfit
  have hload : faultOf (.ldVxMi x) { effect (.ldMiVx x) s with V := v } = none := boundsFault_of_lt hfit
  refine ⟨_, _, exec_of_noFault (boundsFault_of_lt hfit), exec_of_noFault hload, fun j hj => ?_⟩
  exact (readV_effect_ldVxMi hj).trans (peek_effect_ldMiVx hm hj)

end Sys2Proof.Machine
end

section
/-! ## Display (44_display.md)

DXYN is described by the list of cells it flips. With the display at least 8 by 15 no cell is listed twice, so a cell
changes exactly when it is listed; whatever the display, flipping the same list twice changes nothing. -/

namespace Sys2Proof.Machine

variable {s : State} {x y : Reg} {n : Nibble} {col row : Nat}

/-- Settles O38: clearing leaves the list of set cells empty. -/
theorem clsClearsEveryPixel : Obligations.ClsClearsEveryPixel :=
  ⟨decodeEncodeIsIdentity .cls rfl, fun _ => ⟨_, rfl, rfl, fun _ _ => rfl⟩⟩

/-- Settles O40: the range is checked before anything is drawn. -/
theorem drawOutOfRangeFaults : Obligations.DrawOutOfRangeFaults := fun _ _ _ _ hn hpast =>
  faultsWith_of_faultOf (if_pos ⟨hn, hpast⟩)

/-! ### No cell lies under two sprite bits -/

/-- The cell number determines the wrapped column and the wrapped row (R36). -/
theorem pixel_eq_pixel_iff {c : Config} (hw : 0 < c.displayW) {x y x' y' : Nat} :
    State.pixel c x y = State.pixel c x' y' ↔
      x % c.displayW = x' % c.displayW ∧ y % c.displayH = y' % c.displayH := by
  have hcol : ∀ a b, State.pixel c a b % c.displayW = a % c.displayW := fun a b => by simp [State.pixel]
  have hrow : ∀ a b, State.pixel c a b / c.displayW = b % c.displayH := fun a b => by
    rw [State.pixel, Nat.add_comm, Nat.add_mul_div_right _ _ hw, Nat.div_eq_of_lt (Nat.mod_lt _ hw), Nat.zero_add]
  constructor
  · intro h
    exact ⟨by rw [← hcol x y, h, hcol], by rw [← hrow x y, h, hrow]⟩
  · rintro ⟨hx, hy⟩
    rw [State.pixel, hx, hy, State.pixel]

theorem nodup_spriteRow (x0 y : Nat) (b : Byte) : (spriteRow x0 y b).Nodup :=
  (List.nodup_range.filter _).map fun _ _ h => Nat.add_left_cancel (congrArg Prod.fst h)

theorem nodup_spritePoints (x0 y : Nat) (rows : List Byte) : (spritePoints x0 y rows).Nodup := by
  induction rows generalizing y with
  | nil => exact List.nodup_nil
  | cons b rest ih =>
    refine (nodup_spriteRow x0 y b).append (ih (y + 1)) fun p hrow hrest => ?_
    obtain ⟨_, -, -, rfl⟩ := mem_spriteRow.1 hrow
    obtain ⟨r, -, _, -, -, heq⟩ := mem_spritePoints.1 hrest
    have hy : y = y + 1 + r := congrArg Prod.snd heq
    omega

/-- With no cell named twice, toggling the cells in order inverts the cells named. -/
theorem lit_foldl_toggle_of_nodup {is : List Nat} (h : is.Nodup) {fb : FrameBuffer} (hf : rising fb = true) (j : Nat) :
    FrameBuffer.lit (is.foldl FrameBuffer.toggle fb) j = (fb.lit j ^^ decide (j ∈ is)) := by
  rw [lit_foldl_toggle is hf, h.count]
  by_cases hj : j ∈ is <;> simp [hj]

/-- A sprite no larger than the display has its set bits on different cells, however it wraps (R202). -/
theorem nodup_pixelsOf_spritePoints {c : Config} {x0 y : Nat} {rows : List Byte} (hw : 8 ≤ c.displayW)
    (hh : rows.length ≤ c.displayH) : (pixelsOf c (spritePoints x0 y rows)).Nodup := by
  refine (nodup_spritePoints x0 y rows).map_on fun p hp q hq heq => ?_
  obtain ⟨r, hr, a, ha, -, rfl⟩ := mem_spritePoints.1 hp
  obtain ⟨r', hr', a', ha', -, rfl⟩ := mem_spritePoints.1 hq
  obtain ⟨hcol, hrow⟩ := (pixel_eq_pixel_iff (by omega)).1 heq
  have hcols : a = a' := (Nat.ModEq.add_left_cancel' x0 hcol).eq_of_lt_of_lt (by omega) (by omega)
  have hrows : r = r' := (Nat.ModEq.add_left_cancel' y hrow).eq_of_lt_of_lt (by omega) (by omega)
  rw [hcols, hrows]

/-! ### The cells DXYN flips -/

/-- The cells under the set bits of the sprite, which `effect` toggles in order. -/
def drawnCells (x y : Reg) (n : Nibble) (s : State) : List Nat := pixelsOf s.cfg (drawnPoints x y n s)

theorem fb_effect_drw : (effect (.drw x y n) s).fb = (drawnCells x y n s).foldl FrameBuffer.toggle s.fb := rfl

theorem rising_fb_effect_drw (hf : rising s.fb = true) : rising (effect (.drw x y n) s).fb = true :=
  rising_foldl_toggle _ hf

theorem mem_drawnCells {j : Nat} : j ∈ drawnCells x y n s ↔
    ∃ r c, r < n.toNat ∧ c < 8 ∧ spriteBit s r c = true ∧
      State.pixel s.cfg ((s.readV x).toNat + c) ((s.readV y).toNat + r) = j := by
  simp only [drawnCells, pixelsOf, drawnPoints, List.mem_map, mem_spritePoints, State.length_peekRange,
    State.getElem_peekRange, State.ea, Nat.add_zero, spriteBit]
  constructor
  · rintro ⟨_, ⟨r, hr, c, hc, hbit, rfl⟩, hj⟩
    exact ⟨r, c, hr, hc, hbit, hj⟩
  · rintro ⟨r, c, hr, hc, hbit, hj⟩
    exact ⟨_, ⟨r, hr, c, hc, hbit, rfl⟩, hj⟩

/-- On a cell of the display the wrap of R36 is no change, so the cell is listed when a set bit wraps onto it. -/
theorem pixel_mem_drawnCells (hcol : col < s.cfg.displayW) (hrow : row < s.cfg.displayH) :
    State.pixel s.cfg col row ∈ drawnCells x y n s ↔
      ∃ r c, r < n.toNat ∧ c < 8 ∧ spriteBit s r c = true ∧
        ((s.readV x).toNat + c) % s.cfg.displayW = col ∧ ((s.readV y).toNat + r) % s.cfg.displayH = row := by
  simp only [mem_drawnCells, pixel_eq_pixel_iff (Nat.zero_lt_of_lt hcol), Nat.mod_eq_of_lt hcol, Nat.mod_eq_of_lt hrow]

theorem nodup_drawnCells (hw : 8 ≤ s.cfg.displayW) (hh : 15 ≤ s.cfg.displayH) : (drawnCells x y n s).Nodup := by
  have hn := n.isLt
  exact nodup_pixelsOf_spritePoints hw (by rw [State.length_peekRange]; omega)

/-! ### The screen and the collision after DXYN -/

section Draw

variable (hf : rising s.fb = true) (hw : 8 ≤ s.cfg.displayW) (hh : 15 ≤ s.cfg.displayH)
include hf hw hh

/-- DXYN inverts the cells it lists and no other (R202). -/
theorem fbGet_effect_drw : (effect (.drw x y n) s).fbGet col row =
    (s.fbGet col row ^^ decide (State.pixel s.cfg col row ∈ drawnCells x y n s)) :=
  lit_foldl_toggle_of_nodup (nodup_drawnCells hw hh) hf _

theorem fbGet_effect_drw_ne_iff : (effect (.drw x y n) s).fbGet col row ≠ s.fbGet col row ↔
    State.pixel s.cfg col row ∈ drawnCells x y n s := by
  rw [fbGet_effect_drw hf hw hh]
  cases s.fbGet col row <;> simp

/-- A pixel goes from 1 to 0 exactly when one of the cells listed was set. -/
theorem collides_drawnCells_iff : collides s.fb (drawnCells x y n s) = true ↔
    ∃ col row, s.fbGet col row = true ∧ (effect (.drw x y n) s).fbGet col row = false := by
  rw [collides_of_nodup _ _ (nodup_drawnCells hw hh), List.any_eq_true]
  constructor
  · rintro ⟨j, hj, hlit⟩
    obtain ⟨r, c, -, -, -, rfl⟩ := mem_drawnCells.1 hj
    exact ⟨_, _, hlit, by rw [fbGet_effect_drw hf hw hh, decide_eq_true hj, State.fbGet, hlit]; rfl⟩
  · rintro ⟨col, row, hon, hoff⟩
    refine ⟨_, (fbGet_effect_drw_ne_iff hf hw hh).1 ?_, hon⟩
    rw [hon, hoff]
    exact Bool.false_ne_true

end Draw

theorem flagByte_eq_one_iff {b : Bool} : flagByte b = 1 ↔ b = true := by
  cases b <;> decide

theorem flagByte_eq_zero_or_one (b : Bool) : flagByte b = 0 ∨ flagByte b = 1 := by
  cases b <;> decide

/-- VF is the collision flag also when X or Y is F: both are read before it is written (R202). -/
theorem readV_vf_effect_drw :
    (effect (.drw x y n) s).readV Reg.vf = flagByte (collides s.fb (drawnCells x y n s)) :=
  s.readV_writeV_same Reg.vf _

/-- VF after DXYN tells whether a pixel went from 1 to 0. -/
theorem readV_vf_effect_drw_eq_one_iff (hf : rising s.fb = true) (hw : 8 ≤ s.cfg.displayW)
    (hh : 15 ≤ s.cfg.displayH) : (effect (.drw x y n) s).readV Reg.vf = 1 ↔
      ∃ col row, s.fbGet col row = true ∧ (effect (.drw x y n) s).fbGet col row = false := by
  rw [readV_vf_effect_drw, flagByte_eq_one_iff, collides_drawnCells_iff hf hw hh]

theorem dirty_effect_drw_iff : (effect (.drw x y n) s).dirty = true ↔
    s.dirty = true ∨ ∃ r c, r < n.toNat ∧ c < 8 ∧ spriteBit s r c = true := by
  rw [← isEmpty_drawnPoints_iff (x := x) (y := y), ← Bool.not_eq_true', ← Bool.or_eq_true]
  rfl

/-- Settles O39: no cell is listed twice, so the cells that change are the cells listed. -/
theorem drawInvertsPixelsUnderSprite : Obligations.DrawInvertsPixelsUnderSprite := by
  intro x y n s hfb hw hh hfit
  obtain ⟨hf, -⟩ := FrameBuffer.wf_iff.1 hfb
  have hpc : (effect (.drw x y n) s).pc = s.pc + 2 := effect_pc_of_netPc rfl
  refine ⟨decodeEncodeIsIdentity (.drw x y n) rfl, _, exec_of_noFault (boundsFault_eq_none.2 hfit),
    by rw [← hpc]; rfl, keepsRegsBut_writeV s Reg.vf _, fun col row hcol hrow => ?_,
    readV_vf_effect_drw ▸ flagByte_eq_zero_or_one _, readV_vf_effect_drw_eq_one_iff hf hw hh, dirty_effect_drw_iff⟩
  rw [fbGet_effect_drw_ne_iff hf hw hh, pixel_mem_drawnCells hcol hrow]

/-! ### The same sprite again (R203) -/

/-- Each cell is toggled an even number of times in all. -/
theorem foldl_toggle_foldl_toggle (is : List Nat) {fb : FrameBuffer} (hf : rising fb = true) :
    is.foldl FrameBuffer.toggle (is.foldl FrameBuffer.toggle fb) = fb := by
  have honce := rising_foldl_toggle is hf
  refine FrameBuffer.eq_of_lit (rising_foldl_toggle is honce) hf fun j => ?_
  rw [lit_foldl_toggle is honce, lit_foldl_toggle is hf, Bool.xor_assoc, Bool.xor_self, Bool.xor_false]

theorem peekRange_congr {s t : State} (h : ∀ a, t.peek a = s.peek a) (a k : Nat) :
    t.peekRange a k = s.peekRange a k := by
  induction k generalizing a with
  | zero => rfl
  | succ k ih => rw [State.peekRange, State.peekRange, h, ih]

/-- DXYN writes neither the memory its sprite is in, nor I, nor a register other than VF. -/
theorem drawnCells_effect_drw (hx : x ≠ Reg.vf) (hy : y ≠ Reg.vf) :
    drawnCells x y n (effect (.drw x y n) s) = drawnCells x y n s := by
  have hreadX : (effect (.drw x y n) s).readV x = s.readV x := s.readV_writeV_ne _ hx
  have hreadY : (effect (.drw x y n) s).readV y = s.readV y := s.readV_writeV_ne _ hy
  have hrows : ∀ a k, (effect (.drw x y n) s).peekRange a k = s.peekRange a k :=
    peekRange_congr (t := effect (.drw x y n) s) fun _ => rfl
  rw [drawnCells, drawnPoints, hreadX, hreadY, hrows]
  rfl

/-- Settles O41: the second DXYN flips the same cells back, and turns off what the first turned on. -/
theorem drawTwiceRestoresScreen : Obligations.DrawTwiceRestoresScreen := by
  intro x y n s hfb hw hh hfit hx hy
  obtain ⟨hf, -⟩ := FrameBuffer.wf_iff.1 hfb
  have hback : (effect (.drw x y n) (effect (.drw x y n) s)).fb = s.fb := by
    rw [fb_effect_drw, drawnCells_effect_drw hx hy, fb_effect_drw, foldl_toggle_foldl_toggle _ hf]
  have hget (col row) : (effect (.drw x y n) (effect (.drw x y n) s)).fbGet col row = s.fbGet col row :=
    congrArg (FrameBuffer.lit · (State.pixel s.cfg col row)) hback
  refine ⟨_, _, exec_of_noFault (boundsFault_eq_none.2 hfit), exec_of_noFault (boundsFault_eq_none.2 hfit),
    hback, ?_⟩
  simp only [readV_vf_effect_drw_eq_one_iff (rising_fb_effect_drw hf) hw hh, hget, and_comm]

end Sys2Proof.Machine
end

section
/-! ## Keypad and timers (45_keypad_timers.md)

A waiting machine takes a Cycle, a release or a tick without touching data registers, pc or the wait latch: one lemma for
the event, one induction over the list. What the press that follows does is `keyEventWritesCellAndWakes`. -/

namespace Sys2Proof.Machine

variable {s t u : State} {e : Event} {es evs : List Event}

/-! ### Timers: one field written (R223, R225, R226) -/

/-- Settles O44: each transfer writes its one destination. -/
theorem timerTransfers : Obligations.TimerTransfers := fun x s =>
  ⟨decodeEncodeIsIdentity (.ldVxDt x) rfl, decodeEncodeIsIdentity (.ldDtVx x) rfl,
    decodeEncodeIsIdentity (.ldStVx x) rfl,
    ⟨_, rfl, rfl, rfl, keepsRegsBut_writeV s x _, readV_writeV_advance s x _⟩, rfl, rfl⟩

/-! ### Key skips (R221, R222) -/

theorem keyOf_of_toNat_eq {v : Byte} {k : Key} (h : v.toNat = k.val) : keyOf v = some k := by
  simp [keyOf, h]

/-- With V[X] a key number, EX9E skips on that key. -/
theorem exec_skp_of_keyOf {x : Reg} {k : Key} (h : keyOf (s.readV x) = some k) :
    exec (.skp x) s = .next (s.skipIf (decide (s.readK k = true))) := by
  simp [exec, execSkp, h]

/-- With V[X] a key number, EXA1 skips on the negation of the same test. -/
theorem exec_sknp_of_keyOf {x : Reg} {k : Key} (h : keyOf (s.readV x) = some k) :
    exec (.sknp x) s = .next (s.skipIf (decide ¬s.readK k = true)) := by
  simp [exec, execSknp, h]

/-- Settles O43, by whether V[X] is a key number: the skips of that key, or the fault of `faultOf`. -/
theorem keySkipsTestOneKey : Obligations.KeySkipsTestOneKey := by
  intro x s
  refine ⟨decodeEncodeIsIdentity (.skp x) rfl, decodeEncodeIsIdentity (.sknp x) rfl, fun k hk => ?_, fun hbig => ?_⟩
  · have hkey := keyOf_of_toNat_eq hk
    rw [exec_skp_of_keyOf hkey, exec_sknp_of_keyOf hkey, skipIf_decide, skipIf_decide_not]
    exact ⟨rfl, rfl⟩
  · exact ⟨faultsWith_of_faultOf (if_pos hbig), faultsWith_of_faultOf (if_pos hbig)⟩

/-! ### Runs and their last step -/

/-- A run of one step more continues after its first step. -/
theorem run_succ_of_step {n : Nat} (h : step s = .next t) :
    Sys2Proof.core.run (n + 1) s = Sys2Proof.core.run n t := by
  have h : Sys2Proof.core.step s = .next t := h
  simp only [Host.Core.run, h]

/-- A run of one step more ends with that step. -/
theorem run_succ_of_run {n : Nat} (h : Sys2Proof.core.run n s = .next u) : Sys2Proof.core.run (n + 1) s = step u := by
  induction n generalizing s with
  | zero =>
    obtain ⟨t, hstep⟩ := everyStepAnswersNext s
    cases h
    exact (run_succ_of_step hstep).trans hstep.symm
  | succ n ih =>
    obtain ⟨t, hstep⟩ := everyStepAnswersNext s
    exact (run_succ_of_step hstep).trans (ih ((run_succ_of_step hstep).symm.trans h))

/-! ### Waiting for a key (R224) -/

/-- The events that leave a waiting machine waiting with its registers: Cycles, releases and ticks. -/
def Event.LeavesWait (e : Event) : Prop :=
  (∃ r, e = .cycle r) ∨ (∃ q, e = .keyEvent q false) ∨ e = .delayTick ∨ e = .soundTick

/-- Data registers, pc and the wait latch are the same in both states. -/
def KeepsWaiting (s t : State) : Prop := t.V = s.V ∧ t.pc = s.pc ∧ t.wait = s.wait

theorem KeepsWaiting.trans (hst : KeepsWaiting s t) (htu : KeepsWaiting t u) : KeepsWaiting s u := by
  obtain ⟨hV, hpc, hwait⟩ := hst
  obtain ⟨hV', hpc', hwait'⟩ := htu
  exact ⟨hV'.trans hV, hpc'.trans hpc, hwait'.trans hwait⟩

theorem KeepsWaiting.awaitingKey (h : KeepsWaiting s t) (hs : AwaitingKey s) : AwaitingKey t := by
  obtain ⟨-, -, hwait⟩ := h
  exact (congrArg WaitLatch.valid hwait).trans hs

/-- R48, R52, R53: a waiting machine takes such an event off the list and keeps waiting. -/
theorem step_leavesWait (hwait : AwaitingKey s) (hi : s.inbox = e :: es) (he : e.LeavesWait) :
    ∃ t, step s = .next t ∧ t.inbox = es ∧ KeepsWaiting s t := by
  rw [step_deliver hi]
  obtain ⟨r, rfl⟩ | ⟨q, rfl⟩ | rfl | rfl := he
  · exact ⟨_, cycle_ignored (.inr hwait), rfl, rfl, rfl, rfl⟩
  · exact ⟨_, congrArg Host.Outcome.next (keyEvent_of_not_wakes (by simp) q), rfl, rfl, rfl, rfl⟩
  · exact ⟨_, congrArg Host.Outcome.next (State.delayTick_eq _), rfl, rfl, rfl, rfl⟩
  · exact ⟨_, congrArg Host.Outcome.next (State.soundTick_eq _), rfl, rfl, rfl, rfl⟩

/-- The whole list of them leaves the machine waiting for whatever comes after. -/
theorem run_leavesWait (hwait : AwaitingKey s) (hi : s.inbox = evs ++ es) (he : ∀ e ∈ evs, e.LeavesWait) :
    ∃ t, Sys2Proof.core.run evs.length s = .next t ∧ t.inbox = es ∧ KeepsWaiting s t := by
  induction evs generalizing s with
  | nil => exact ⟨s, rfl, hi, rfl, rfl, rfl⟩
  | cons e evs ih =>
    obtain ⟨he, hevs⟩ := List.forall_mem_cons.1 he
    obtain ⟨u, hstep, hiu, hu⟩ := step_leavesWait hwait hi he
    obtain ⟨t, hrun, hit, ht⟩ := ih (hu.awaitingKey hwait) hiu hevs
    exact ⟨t, (run_succ_of_step hstep).trans hrun, hit, hu.trans ht⟩

/-- R53: the press a waiting machine takes next delivers its key number to the register waiting and ends the wait. -/
theorem step_press (hwait : AwaitingKey s) {k : Key} (hi : s.inbox = .keyEvent k true :: es) :
    ∃ t, step s = .next t ∧ (t.readV s.wait.reg).toNat = k.val ∧ KeepsRegsBut [s.wait.reg] s t ∧ t.pc = s.pc ∧
      t.wait.valid = false := by
  obtain ⟨t, hstep, hframe, -, hregs, hvalid, -⟩ := keyEventWritesCellAndWakes s k true es hi
  refine ⟨t, hstep, (hregs _).trans (if_pos ⟨hwait, rfl, rfl⟩), fun r hr => ?_, ?_, by simpa using hvalid⟩
  · exact BitVec.eq_of_toNat_eq ((hregs r).trans (if_neg fun h => hr (by simp [h.2.2])))
  · rw [hframe]

/-- The press is the step after the list, in a state with the registers, pc and latch of the first. -/
theorem run_leavesWait_press (hwait : AwaitingKey s) {k : Key} (hi : s.inbox = evs ++ [.keyEvent k true])
    (he : ∀ e ∈ evs, e.LeavesWait) :
    ∃ t, Sys2Proof.core.run (evs.length + 1) s = .next t ∧ (t.readV s.wait.reg).toNat = k.val ∧
      KeepsRegsBut [s.wait.reg] s t ∧ t.pc = s.pc ∧ t.wait.valid = false := by
  obtain ⟨u, hrun, hiu, hu⟩ := run_leavesWait hwait hi he
  obtain ⟨t, hstep, hkey, hregs, hpc, hvalid⟩ := step_press (hu.awaitingKey hwait) hiu
  obtain ⟨hV, hpcu, hlatch⟩ := hu
  rw [hlatch] at hkey hregs
  exact ⟨t, (run_succ_of_run hrun).trans hstep, hkey, fun r hr => (hregs r hr).trans (congrArg (·.get r) hV),
    hpc.trans hpcu, hvalid⟩

/-- Settles O45: FX0A leaves a waiting machine, and the two runs start from it. -/
theorem keyWaitEndsWithFirstPress : Obligations.KeyWaitEndsWithFirstPress := by
  intro x s
  refine ⟨decodeEncodeIsIdentity (.ldVxK x) rfl, _, rfl, rfl, fun evs k hevs =>
    ⟨?_, run_leavesWait_press rfl rfl hevs⟩⟩
  obtain ⟨u, hrun, -, hkeeps⟩ := run_leavesWait (s := { s with wait := ⟨true, x⟩, pc := s.pc + 2, inbox := evs }) rfl
    (List.append_nil evs).symm hevs
  exact ⟨u, hrun, hkeeps⟩

end Sys2Proof.Machine
end

section
/-! ## Faults, waits and notifications (60_exceptions.md)

The faults are those of `faultOf`. Whether a machine waits is followed through one Cycle, then through one step. The two
timers count down by one argument, over the event that ticks, the value it decrements and what it notifies. -/

namespace Sys2Proof.Machine

variable {s t : State} {es : List Event}

/-! ### Faults of instructions (R243 to R248) -/

/-- Settles O53: the latch is no field function of `effect`, so an instruction that does not fault keeps it. -/
theorem faultsAreExactlyTheListed : Obligations.FaultsAreExactlyTheListed := fun _ _ =>
  ⟨fun _ _ hf => faultsWith_of_faultOf hf, fun hf => ⟨_, exec_of_noFault hf, rfl⟩⟩

/-! ### Entering and leaving AwaitingKey (R276) -/

/-- A Running `s` fetches an FX0A, and `t` waits for its register. -/
def EntersWait (s t : State) : Prop :=
  Running s ∧ ∃ w x, s.fetch = .ok w ∧ decode w = .ok (.ldVxK x) ∧ t.wait = ⟨true, x⟩

theorem EntersWait.wait_valid (h : EntersWait s t) : t.wait.valid = true := by
  obtain ⟨-, w, x, -, -, hwait⟩ := h
  rw [hwait]

/-- R224: FX0A is the only instruction that writes the wait latch, and it names its own register. -/
theorem exec_wait_cases {i : Instr} (h : exec i s = .next t) :
    t.wait = s.wait ∨ ∃ x, i = .ldVxK x ∧ t.wait = ⟨true, x⟩ := by
  obtain ⟨-, -, -, -, -, hkept | ⟨x, rfl⟩⟩ := specialRegistersWrittenOnlyAsListed i s t h
  · exact .inl hkept
  · cases h
    exact .inr ⟨x, rfl, rfl⟩

theorem cycle_wait_cases (h : s.cycle = .next t) : t.wait = s.wait ∨ EntersWait s t := by
  rcases cycle_cases h with ⟨rfl, -⟩ | ⟨hr, ⟨a, -, rfl⟩ | ⟨w, r, -, -, rfl⟩ | ⟨w, i, hfetch, hdecode, h⟩⟩
  · exact .inl rfl
  · exact .inl rfl
  · exact .inl rfl
  · obtain hkept | ⟨x, rfl, hwait⟩ := exec_wait_cases h
    · exact .inl hkept
    · exact .inr ⟨hr, w, x, hfetch, hdecode, hwait⟩

theorem keyEvent_wait_cases (s : State) (k : Key) (p : Bool) :
    (s.keyEvent k p).wait = s.wait ∨ (p = true ∧ (s.keyEvent k p).wait.valid = false) := by
  by_cases hw : s.wait.valid = true ∧ p = true
  · obtain ⟨hv, rfl⟩ := hw
    rw [keyEvent_press hv]
    exact .inr ⟨rfl, rfl⟩
  · rw [keyEvent_of_not_wakes hw]
    exact .inl rfl

/-- Everything a step can do to the wait latch, by the event it delivers. -/
theorem step_wait_cases (h : step s = .next t) :
    t.wait = s.wait ∨
    ((s.inbox = [] ∨ ∃ r es, s.inbox = .cycle r :: es) ∧ EntersWait s t) ∨
    (((∃ k es, s.inbox = .keyEvent k true :: es) ∨ ∃ es, s.inbox = .reset :: es) ∧ t.wait.valid = false) := by
  rcases step_cases h with ⟨hi, h⟩ | ⟨r, es, hi, h⟩ | ⟨es, hi, rfl⟩ | ⟨b, es, -, rfl⟩ | ⟨es, -, rfl⟩ |
    ⟨es, -, rfl⟩ | ⟨k, p, es, hi, rfl⟩
  · exact (cycle_wait_cases h).imp_right fun henter => .inl ⟨.inl hi, henter⟩
  · exact (cycle_wait_cases h).imp_right fun henter => .inl ⟨.inr ⟨r, es, hi⟩, henter⟩
  · exact .inr (.inr ⟨.inr ⟨es, hi⟩, rfl⟩)
  · rw [State.romLoad_eq]; exact .inl rfl
  · rw [State.delayTick_eq]; exact .inl rfl
  · rw [State.soundTick_eq]; exact .inl rfl
  · refine (keyEvent_wait_cases _ k p).imp_right ?_
    rintro ⟨rfl, hleft⟩
    exact .inr ⟨.inl ⟨k, es, hi⟩, hleft⟩

/-- Settles O10: of the ways a step treats the wait latch, one sets it and one clears it. -/
theorem waitEnteredByFx0aLeftByPress : Obligations.WaitEnteredByFx0aLeftByPress := by
  intro s t h
  rcases step_wait_cases h with hkept | ⟨hi, henter⟩ | ⟨hi, hleft⟩
  · rw [hkept]
    exact ⟨fun hw hn => absurd hw (by simp [hn]), fun hn hw => absurd hw (by simp [hn])⟩
  · refine ⟨fun _ hn => absurd henter.wait_valid (by simp [hn]), fun _ _ => ?_⟩
    obtain ⟨hr, w, x, hfetch, hdecode, hwait⟩ := henter
    exact ⟨hi, hr, w, x, hfetch, hdecode, congrArg WaitLatch.reg hwait⟩
  · exact ⟨fun _ _ => hi, fun _ hw => absurd hw (by simp [hleft])⟩

/-! ### Ticks of one timer in a row (R225, R271) -/

/-- A step that delivers `e` counts `timer` down to 0 and notifies `o` when it gets there. -/
def CountsDown (e : Event) (timer : State → Byte) (o : Output) : Prop :=
  ∀ (s : State) (es : List Event), s.inbox = e :: es →
    ∃ t, step s = .next t ∧ t.inbox = es ∧ (timer t).toNat = (timer s).toNat - 1 ∧
      t.out = if (timer s).toNat = 1 then some o else none

theorem countsDown_delayTick : CountsDown .delayTick State.DT .delayZero := by
  intro s es hi
  obtain ⟨t, hstep, hframe, hvalue, hout⟩ := (ticksCountDownOneTimer s es).1 hi
  exact ⟨t, hstep, congrArg State.inbox hframe, hvalue, hout⟩

theorem countsDown_soundTick : CountsDown .soundTick State.ST .soundZero := by
  intro s es hi
  obtain ⟨t, hstep, hframe, hvalue, hout⟩ := (ticksCountDownOneTimer s es).2 hi
  exact ⟨t, hstep, congrArg State.inbox hframe, hvalue, hout⟩

section Countdown

variable {e : Event} {timer : State → Byte} {o : Output} (he : CountsDown e timer o)
include he

/-- `n` ticks take `n` off the value, not below 0. -/
theorem CountsDown.run {n : Nat} (hi : s.inbox = List.replicate n e ++ es) :
    ∃ t, Sys2Proof.core.run n s = .next t ∧ t.inbox = es ∧ (timer t).toNat = (timer s).toNat - n := by
  induction n generalizing s with
  | zero => exact ⟨s, rfl, hi, rfl⟩
  | succ n ih =>
    obtain ⟨u, hstep, hiu, hu, -⟩ := he s (List.replicate n e ++ es) hi
    obtain ⟨t, hrun, hit, ht⟩ := ih hiu
    exact ⟨t, (run_succ_of_step hstep).trans hrun, hit, by omega⟩

/-- The last of `n + 1` ticks finds the value `n` below its start, so it notifies when the start was `n + 1`. -/
theorem CountsDown.run_succ {n : Nat} (hi : s.inbox = List.replicate (n + 1) e ++ es) :
    ∃ t, Sys2Proof.core.run (n + 1) s = .next t ∧ (timer t).toNat = (timer s).toNat - (n + 1) ∧
      (t.out = some o ↔ n + 1 = (timer s).toNat) := by
  rw [List.replicate_succ', List.append_assoc] at hi
  obtain ⟨u, hrun, hiu, hu⟩ := he.run hi
  obtain ⟨t, hstep, -, ht, hout⟩ := he u es hiu
  have hnotify : t.out = some o ↔ (timer u).toNat = 1 := by simp [hout]
  exact ⟨t, (run_succ_of_run hrun).trans hstep, by omega, hnotify.trans (by omega)⟩

end Countdown

/-- Settles O15, one timer a clause. -/
theorem countdownNotifiesOnceAtZero : Obligations.CountdownNotifiesOnceAtZero := fun _ _ _ =>
  ⟨countsDown_delayTick.run_succ, countsDown_soundTick.run_succ⟩

end Sys2Proof.Machine
end

section
/-! ## Reset and the host premises (70_reset_and_hazards.md)

A run takes the events off the list in order. Between Reset and the first Cycle only a RomLoad writes memory, and nothing
moves pc; from the first Cycle on the premises leave no event that writes memory but a Cycle that stores. -/

namespace Sys2Proof.Machine

variable {s t u : State} {e : Event} {es evs pre post : List Event} {c : Config}

/-! ### The first fetch (R291) -/

/-- Settles O13: a RomLoad writes neither pc nor the parameters, so the fetch is in range. -/
theorem firstFetchIsAt512 : Obligations.FirstFetchIsAt512 := by
  intro bytes
  have hpc : (State.reset.romLoad bytes).pc = 512 := by rw [State.romLoad_eq]; rfl
  have hcfg : (State.reset.romLoad bytes).cfg = Config.std := by rw [State.romLoad_eq]; rfl
  have hrange : (State.reset.romLoad bytes).pc.toNat + 1 < (State.reset.romLoad bytes).cfg.memSize := by
    rw [hpc, hcfg]; decide
  refine ⟨hpc, (State.fetch_ok _ hrange).trans ?_⟩
  rw [hpc]
  rfl

/-! ### No ROM is refused (R54) -/

/-- The ROMs of a schedule all fit (R306 (b)). -/
def RomsFit (c : Config) (evs : List Event) : Prop := ∀ bytes ∈ romLoads evs, c.pcInit + bytes.length ≤ c.memSize

theorem RomsFit.of_subset (h : RomsFit c evs) (hsub : es ⊆ evs) : RomsFit c es :=
  fun bytes hb => h bytes (List.filterMap_subset _ hsub hb)

theorem cycle_ports (h : s.cycle = .next t) : t.inbox = s.inbox ∧ t.out = s.out := by
  rcases cycle_cases h with ⟨rfl, -⟩ | ⟨-, ⟨a, -, rfl⟩ | ⟨w, r, -, -, rfl⟩ | ⟨w, i, -, -, h⟩⟩
  · exact ⟨rfl, rfl⟩
  · exact ⟨rfl, rfl⟩
  · exact ⟨rfl, rfl⟩
  · obtain ⟨-, -, -, hinbox, -, -, hout⟩ := screenAndPortsWrittenOnlyAsListed i _ t h
    exact ⟨hinbox, hout⟩

/-- A RomLoad that fits sends nothing outward. -/
theorem romLoad_out_of_fits {b : List Byte} (h : s.cfg.pcInit + b.length ≤ s.cfg.memSize) :
    (s.romLoad b).out = s.out := by
  rw [State.romLoad, if_neg (Nat.not_lt.2 h), State.pokeRange_eq]

/-- A step takes one event off the list, if there is one. -/
theorem step_inbox (h : step s = .next t) : t.inbox = s.inbox.tail := by
  rcases step_cases h with ⟨hi, h⟩ | ⟨r, es, hi, h⟩ | ⟨es, hi, rfl⟩ | ⟨b, es, hi, rfl⟩ | ⟨es, hi, rfl⟩ |
    ⟨es, hi, rfl⟩ | ⟨k, p, es, hi, rfl⟩ <;> rw [hi]
  · exact (cycle_ports h).1.trans hi
  · exact (cycle_ports h).1
  · rfl
  · rw [State.romLoad_eq]; rfl
  · rw [State.delayTick_eq]; rfl
  · rw [State.soundTick_eq]; rfl
  · rw [State.keyEvent_eq]; rfl

/-- A step refuses no ROM when those listed fit. -/
theorem step_out_ne_romTooLarge (h : step s = .next t) (hfit : RomsFit s.cfg s.inbox) : t.out ≠ some .romTooLarge := by
  rcases step_cases h with ⟨-, h⟩ | ⟨r, es, -, h⟩ | ⟨es, -, rfl⟩ | ⟨b, es, hi, rfl⟩ | ⟨es, -, rfl⟩ | ⟨es, -, rfl⟩ |
    ⟨k, p, es, -, rfl⟩
  · rw [(cycle_ports h).2]; nofun
  · rw [(cycle_ports h).2]; nofun
  · nofun
  · rw [hi] at hfit
    rw [romLoad_out_of_fits (s := (s.setOut none).setInbox es) (hfit b List.mem_cons_self)]; nofun
  · rw [(delayTick_spec rfl).2]; split <;> nofun
  · rw [(soundTick_spec rfl).2]; split <;> nofun
  · rw [State.keyEvent_eq]; nofun

/-- No step of a run whose ROMs fit refuses one: what is left of the list still fits. -/
theorem run_out_ne_romTooLarge {k : Nat} (hfit : RomsFit s.cfg s.inbox) (h : Sys2Proof.core.run (k + 1) s = .next u) :
    u.out ≠ some .romTooLarge := by
  induction k generalizing s with
  | zero => exact step_out_ne_romTooLarge ((run_succ_of_run rfl).symm.trans h) hfit
  | succ k ih =>
    obtain ⟨t, hstep⟩ := everyStepAnswersNext s
    refine ih ?_ ((run_succ_of_step hstep).symm.trans h)
    rw [(eventsWriteOnlyTheirState s t hstep).1, step_inbox hstep]
    exact hfit.of_subset (List.tail_subset _)

/-- After `k` steps the first `k` events are off the list. -/
theorem run_inbox {k : Nat} (h : Sys2Proof.core.run k s = .next t) : t.inbox = s.inbox.drop k := by
  induction k generalizing s with
  | zero => cases h; rfl
  | succ k ih =>
    obtain ⟨u, hstep⟩ := everyStepAnswersNext s
    rw [ih ((run_succ_of_step hstep).symm.trans h), step_inbox hstep, List.drop_tail]

/-! ### Between Reset and the first Cycle -/

/-- A well-formed machine that is to run from `PC_INIT` (R300). -/
def AtProgramStart (s : State) : Prop := s.wf = true ∧ Running s ∧ s.pc.toNat = s.cfg.pcInit

/-- Memory from `s` to `t`: each of `roms` stands at `a`, and a byte outside all of them is as before. -/
def RomsLoaded (a : Nat) (roms : List (List Byte)) (s t : State) : Prop :=
  (∀ bytes ∈ roms, ∀ j (h : j < bytes.length), t.peek (a + j) = bytes[j]) ∧
  ∀ b, (∀ bytes ∈ roms, b < a ∨ a + bytes.length ≤ b) → t.peek b = s.peek b

theorem romsLoaded_nil {a : Nat} : RomsLoaded a [] s t ↔ ∀ b, t.peek b = s.peek b := by simp [RomsLoaded]

/-- With at most one ROM in all, what is loaded first is not overwritten. -/
theorem RomsLoaded.trans {a : Nat} {roms roms' : List (List Byte)} (hst : RomsLoaded a roms s t)
    (htu : RomsLoaded a roms' t u) (hone : (roms ++ roms').length ≤ 1) : RomsLoaded a (roms ++ roms') s u := by
  have hnil : roms = [] ∨ roms' = [] := by
    rw [List.length_append] at hone
    simp only [← List.length_eq_zero_iff]
    omega
  rcases hnil with rfl | rfl
  · exact ⟨htu.1, fun b hb => (htu.2 b hb).trans (romsLoaded_nil.1 hst b)⟩
  · rw [List.append_nil]
    have hkept := romsLoaded_nil.1 htu
    exact ⟨fun bytes hmem j hj => (hkept _).trans (hst.1 bytes hmem j hj), fun b hb => (hkept b).trans (hst.2 b hb)⟩

/-- Before the first Cycle no event but Reset moves pc or stops the machine, and none but a RomLoad writes memory. -/
theorem step_atProgramStart (hs : AtProgramStart s) (hi : s.inbox = e :: es) (hc : e.isCycle = false)
    (hr : e ≠ .reset) (hfit : RomsFit s.cfg [e]) :
    ∃ t, step s = .next t ∧ t.cfg = s.cfg ∧ AtProgramStart t ∧ RomsLoaded s.cfg.pcInit (romLoads [e]) s t := by
  obtain ⟨hwf, hrun, hpc⟩ := hs
  suffices h : ∃ t, step s = .next t ∧ t.cfg = s.cfg ∧ t.pc = s.pc ∧ Running t ∧
      RomsLoaded s.cfg.pcInit (romLoads [e]) s t by
    obtain ⟨t, hstep, hcfg, hpct, hrunt, hload⟩ := h
    exact ⟨t, hstep, hcfg, ⟨stepKeepsWellFormed s t hwf hstep, hrunt, by rw [hpct, hcfg, hpc]⟩, hload⟩
  cases e with
  | reset => exact absurd rfl hr
  | cycle r => cases hc
  | romLoad b =>
    obtain ⟨t, hstep, hframe, hin, hout⟩ :=
      (romLoadIsAllOrNothing s b es hwf hi).1 (hfit b (List.mem_singleton.2 rfl))
    refine ⟨t, hstep, ?_, ?_, ?_, ?_⟩
    · rw [hframe]
    · rw [hframe]
    · rw [hframe]; exact hrun
    · exact ⟨fun bytes hmem => List.mem_singleton.1 hmem ▸ hin,
        fun a ha => hout a (ha b (List.mem_singleton.2 rfl))⟩
  | delayTick =>
    refine ⟨_, step_deliver hi, ?_⟩
    rw [State.delayTick_eq]
    exact ⟨rfl, rfl, hrun, romsLoaded_nil.2 fun _ => rfl⟩
  | soundTick =>
    refine ⟨_, step_deliver hi, ?_⟩
    rw [State.soundTick_eq]
    exact ⟨rfl, rfl, hrun, romsLoaded_nil.2 fun _ => rfl⟩
  | keyEvent k p =>
    refine ⟨_, step_deliver hi, ?_⟩
    rw [keyEvent_of_not_wakes (s := (s.setOut none).setInbox es) (by simp [hrun.2])]
    exact ⟨rfl, rfl, hrun, romsLoaded_nil.2 fun _ => rfl⟩

/-- The whole schedule up to the first Cycle loads its one ROM, if any, and leaves the machine at the program's start. -/
theorem run_atProgramStart (hs : AtProgramStart s) (hi : s.inbox = pre ++ post) (hc : ∀ e ∈ pre, e.isCycle = false)
    (hr : .reset ∉ pre) (hfit : RomsFit s.cfg pre) (hone : (romLoads pre).length ≤ 1) :
    ∃ t, Sys2Proof.core.run pre.length s = .next t ∧ t.cfg = s.cfg ∧ AtProgramStart t ∧
      RomsLoaded s.cfg.pcInit (romLoads pre) s t := by
  induction pre generalizing s with
  | nil => exact ⟨s, rfl, rfl, hs, romsLoaded_nil.2 fun _ => rfl⟩
  | cons e pre ih =>
    obtain ⟨hce, hcpre⟩ := List.forall_mem_cons.1 hc
    obtain ⟨hre, hrpre⟩ := not_or.1 (mt List.mem_cons.2 hr)
    have hroms : romLoads (e :: pre) = romLoads [e] ++ romLoads pre := romLoads_append [e] pre
    rw [hroms] at hone ⊢
    obtain ⟨u, hstep, hcfgu, hu, hloadu⟩ :=
      step_atProgramStart hs hi hce (Ne.symm hre) (hfit.of_subset (by simp))
    obtain ⟨t, hrun, hcfgt, ht, hloadt⟩ := ih hu (by rw [step_inbox hstep, hi]; rfl) hcpre hrpre
      (hcfgu ▸ hfit.of_subset (List.subset_cons_self e pre)) (by rw [List.length_append] at hone; omega)
    rw [hcfgu] at hcfgt hloadt
    exact ⟨t, (run_succ_of_step hstep).trans hrun, hcfgt, ht, hloadu.trans hloadt hone⟩

theorem toNat_pcInit (h : c.wf = true) : (BitVec.ofNat 16 c.pcInit).toNat = c.pcInit := by
  simp only [Config.wf, Bool.and_eq_true, decide_eq_true_eq] at h
  obtain ⟨⟨⟨⟨⟨hmem, hpc⟩, -⟩, -⟩, -⟩, -⟩ := h
  exact (BitVec.toNat_ofNat ..).trans (Nat.mod_eq_of_lt (by omega))

/-- R46: Reset leaves a machine with legal parameters at the program's start, with no ROM in memory. -/
theorem step_reset (hc : s.cfg.wf = true) (hi : s.inbox = .reset :: es) :
    ∃ t, step s = .next t ∧ t.cfg = s.cfg ∧ AtProgramStart t ∧
      RomsLoaded s.cfg.pcInit [] (State.resetWith s.cfg) t :=
  ⟨_, resetStateIsAsSpecified.1 s es hi, rfl, ⟨wf_resetWith hc, ⟨rfl, rfl⟩, toNat_pcInit hc⟩,
    romsLoaded_nil.2 fun _ => rfl⟩

/-! ### While the program runs -/

/-- The next Cycle of `s` executes an instruction that stores. -/
def FetchesStore (s : State) : Prop :=
  Running s ∧ ∃ w i, s.fetch = .ok w ∧ decode w = .ok i ∧ storeRange i s ≠ none

theorem fetchesStore_of_takesCycle (h : TakesCycle s u) (hu : FetchesStore u) : FetchesStore s := by
  obtain ⟨-, rfl⟩ | ⟨r, es, -, rfl⟩ := h <;> exact hu

theorem afterStores_of_storeRange_eq_none {i : Instr} (h : storeRange i s = none) : afterStores i s = s := by
  unfold storeRange at h
  split at h
  · cases h
  · cases h
  · next hbcd hbulk =>
    unfold afterStores
    split
    · exact (hbcd _ rfl).elim
    · exact (hbulk _ rfl).elim
    · rfl

theorem exec_mem_cases {i : Instr} (h : exec i s = .next t) : t.mem = s.mem ∨ storeRange i s ≠ none := by
  rcases exec_cases h with ⟨c, info, -, rfl⟩ | ⟨-, rfl⟩
  · exact .inl rfl
  · refine or_iff_not_imp_right.2 fun hr => ?_
    show (afterStores i s).mem = s.mem
    rw [afterStores_of_storeRange_eq_none (not_not.1 hr)]

theorem cycle_mem_cases (h : s.cycle = .next t) : t.mem = s.mem ∨ FetchesStore s := by
  rcases cycle_cases h with ⟨rfl, -⟩ | ⟨hr, ⟨a, -, rfl⟩ | ⟨w, r, -, -, rfl⟩ | ⟨w, i, hfetch, hdecode, h⟩⟩
  · exact .inl rfl
  · exact .inl rfl
  · exact .inl rfl
  · exact (exec_mem_cases h).imp_right fun hstore => ⟨hr, w, i, hfetch, hdecode, hstore⟩

theorem takesCycle_mem (h : TakesCycle s u) : u.mem = s.mem := by
  obtain ⟨-, rfl⟩ | ⟨r, es, -, rfl⟩ := h <;> rfl

theorem exists_takesCycle (h : ∀ e, s.inbox.head? = some e → e.isCycle = true) : ∃ u, TakesCycle s u := by
  cases hi : s.inbox with
  | nil => exact ⟨_, takesCycle_free hi⟩
  | cons e es =>
    rw [hi] at h
    cases e with
    | cycle r => exact ⟨_, takesCycle_listed hi⟩
    | reset | romLoad _ | delayTick | soundTick | keyEvent _ _ => cases h _ rfl

/-- Where neither Reset nor a RomLoad is listed, a step that writes memory is a Cycle that stores. -/
theorem step_mem_cases (h : step s = .next t) (hp : ∀ e ∈ s.inbox, e ≠ .reset ∧ e.rom = none) :
    t.mem = s.mem ∨ FetchesStore s ∧ ∃ u, TakesCycle s u := by
  have ofCycle {u : State} (hu : TakesCycle s u) : t.mem = s.mem ∨ FetchesStore s ∧ ∃ u, TakesCycle s u := by
    rw [← takesCycle_mem hu]
    exact (cycle_mem_cases ((step_takesCycle hu).symm.trans h)).imp_right
      fun hstore => ⟨fetchesStore_of_takesCycle hu hstore, u, hu⟩
  obtain ⟨-, -, hkept | hi | ⟨r, es, hi⟩ | ⟨b, es, hi⟩ | ⟨es, hi⟩⟩ := eventsWriteOnlyTheirState s t h
  · exact .inl hkept
  · exact ofCycle (takesCycle_free hi)
  · exact ofCycle (takesCycle_listed hi)
  · rw [hi] at hp
    cases (hp _ List.mem_cons_self).2
  · rw [hi] at hp
    exact ((hp _ List.mem_cons_self).1 rfl).elim

/-! ### A schedule split at its first Cycle (R306) -/

/-- R306 (a): no Reset follows the first. -/
theorem reset_not_mem (h : OneResetFirst (.reset :: es)) : .reset ∉ es :=
  List.count_eq_zero.1 (by simpa [OneResetFirst] using h)

/-- R306 (c): what follows the Cycle-free part of a schedule loads no ROM. -/
theorem romLoads_post (h : NoRomLoadWhileRunning (pre ++ post)) (hc : ∀ e ∈ pre, e.isCycle = false)
    (hp : ∀ e, post.head? = some e → e.isCycle = true) : romLoads post = [] := by
  cases post with
  | nil => rfl
  | cons e es =>
    cases e with
    | cycle r => rwa [NoRomLoadWhileRunning, fromFirstCycle_append_cycle hc] at h
    | reset | romLoad _ | delayTick | soundTick | keyEvent _ _ => cases hp _ rfl

/-- Reset, then the events before the first Cycle: the ROM, if any, is loaded over the reset contents of memory. -/
theorem run_reset_pre (hwf : s.cfg.wf = true) (hi : s.inbox = .reset :: pre ++ post)
    (hc : ∀ e ∈ pre, e.isCycle = false) (hr : .reset ∉ pre) (hfit : RomsFit s.cfg pre)
    (hone : (romLoads pre).length ≤ 1) :
    ∃ t, Sys2Proof.core.run (pre.length + 1) s = .next t ∧ t.cfg = s.cfg ∧ AtProgramStart t ∧
      RomsLoaded s.cfg.pcInit (romLoads pre) (State.resetWith s.cfg) t := by
  obtain ⟨u, hstep, hcfgu, hu, hinit⟩ := step_reset hwf hi
  have hiu : u.inbox = pre ++ post := by rw [step_inbox hstep, hi]; rfl
  obtain ⟨t, hrun, hcfg, ht, hload⟩ := run_atProgramStart hu hiu hc hr (hcfgu ▸ hfit) hone
  rw [hcfgu] at hcfg hload
  exact ⟨t, (run_succ_of_step hstep).trans hrun, hcfg, ht, hinit.trans hload hone⟩

/-- Settles O18: the run up to the first Cycle is Reset and the load, and what is left of the list after it holds neither. -/
theorem hostPremisesGiveOneLoadThenTheProgram : Obligations.HostPremisesGiveOneLoadThenTheProgram := by
  intro s pre post hwf hi hprem hc hp
  rw [hi] at hprem
  obtain ⟨hreset, ⟨hone, hfit⟩, hrunning⟩ := hprem
  obtain ⟨hrpre, hrpost⟩ := not_or.1 (mt List.mem_append.2 (reset_not_mem hreset))
  have hcpre : ∀ e ∈ .reset :: pre, e.isCycle = false := List.forall_mem_cons.2 ⟨rfl, hc⟩
  have hlpost : romLoads post = [] := romLoads_post hrunning hcpre hp
  have hroms : romLoads (.reset :: pre ++ post) = romLoads pre := by
    rw [romLoads_append, hlpost, List.append_nil, romLoads_reset]
  have hfitpre : RomsFit s.cfg pre := fun bytes hb => hfit bytes (hroms ▸ hb)
  have hpost (e) (he : e ∈ post) : e ≠ .reset ∧ e.rom = none :=
    ⟨fun h => hrpost (h ▸ he), List.filterMap_eq_nil_iff.1 hlpost e he⟩
  have hdrop : s.inbox.drop (pre.length + 1) = post := by rw [hi]; exact List.drop_left
  refine ⟨fun k u => run_out_ne_romTooLarge (hi ▸ hfit), ?_, fun k u v hk hrun hstep => ?_⟩
  · obtain ⟨t, hrun, hcfg, ⟨-, hrunt, hpc⟩, hin, hout⟩ :=
      run_reset_pre hwf hi hc hrpre hfitpre (hroms ▸ hone)
    have hit : t.inbox = post := (run_inbox hrun).trans hdrop
    exact ⟨t, hrun, hit, exists_takesCycle (hit ▸ hp), hrunt, hcfg ▸ hpc, hin, hout⟩
  · have hleft : u.inbox ⊆ post := by
      rw [run_inbox hrun, ← hdrop]
      exact List.drop_subset_drop_left _ hk
    rcases step_mem_cases hstep fun e he => hpost e (hleft he) with hkept | ⟨⟨hr, hstore⟩, hcycle⟩
    · exact .inl hkept
    · exact .inr ⟨hr, hcycle, hstore⟩

end Sys2Proof.Machine
end
